-- ==== Sys2Proof/Word.lean ====
section
/-! DEFINITION. The word types of the block and their plainest arithmetic (spec/00_scope.md R9-R12). -/

namespace Sys2Proof

/-- A host-visible register, a command word, a count or a weight: 32 bits (R10, R11). -/
abbrev Word := BitVec 32

/-- A character or byte lane: 8 bits (R51, R71 form C). -/
abbrev Byte := BitVec 8

/-- A symbol field: 21 bits (R9). -/
abbrev Symbol := BitVec 21

/-- A node index or an index operand: 16 bits (R11, R71 form X). -/
abbrev Index := BitVec 16

/-- `zext_32` of R12. -/
abbrev zext32 {w : Nat} (v : BitVec w) : Word := v.setWidth 32

end Sys2Proof
end

