-- ==== Sys2Proof/Config.lean ====
section
/-! DEFINITION. What a build fixes, the block's constants, and the free values of the model. -/

namespace Sys2Proof

/-- The build parameters the spec leaves OPEN: the table capacity `N_MAX` (R7) and the platform's window
base `HTB_BASE` (R50, R63). Every state carries them and no step changes them (log 1, log 2). -/
structure Build where
  nMax : Nat
  base : Nat
  deriving DecidableEq, Repr

namespace Config

/-- The build `State.reset` stands for: the reference capacity 256 of R7 (DESIGN CHOICE, log 1) and window
base 0 (DESIGN CHOICE, log 2). -/
def referenceBuild : Build := { nMax := 256, base := 0 }

/-- `L_MAX`, the longest codeword in bits, fixed for every build (R8). -/
def lMax : Nat := 64

/-- The largest symbol, the last Unicode code point (R9). -/
def maxSymbol : Symbol := 0x10FFFF#21

/-- The constant `ID` register (R2, R21). -/
def idValue : Word := 0x48544201#32

/-- A read that R64 leaves to "any value": the n-th draw is unconstrained (free value, log 5). -/
opaque freeRead : Nat → BitVec 32

/-- How many host actions come before a command completes: finite and without a bound (R232, R233; free
value, log 4). -/
opaque freeDelay : Nat → Nat

end Config
end Sys2Proof
end

