-- ==== Sys2Proof/Syntax.lean ====
section
/-! DEFINITION. The commands (one constructor per row of spec/opcode_table.json), their mnemonics and operand
forms, the assembler's lines (R80), and the host's actions. -/

namespace Sys2Proof

/-- The command set of R72, each with the operand its form gives it (R71). -/
inductive Instr where
  | nop
  | clear
  | count (sym : Symbol)
  | heapinit
  | merge
  | build
  | gentable
  | encode (sym : Symbol)
  | decode (chr : Byte)
  | decend
  | ldbegin
  | ldent (sym : Symbol)
  | ldend
  | rdfreq (idx : Index)
  | rdnode (idx : Index)
  | rdcode (idx : Index)
  deriving DecidableEq, Repr

/-- The mnemonics of R72. -/
inductive Opcode where
  | nop | clear | count | heapinit | merge | build | gentable | encode
  | decode | decend | ldbegin | ldent | ldend | rdfreq | rdnode | rdcode
  deriving DecidableEq, Repr

/-- The operand forms N, S, C and X of R71. -/
inductive Form where
  | none | symbol | character | index
  deriving DecidableEq, Repr

/-- The form each opcode uses (R72). -/
def Opcode.form : Opcode → Form
  | .nop | .clear | .heapinit | .merge | .build | .gentable | .decend | .ldbegin | .ldend => .none
  | .count | .encode | .ldent => .symbol
  | .decode => .character
  | .rdfreq | .rdnode | .rdcode => .index

/-- The mnemonic of a command. -/
def Instr.opcode : Instr → Opcode
  | .nop => .nop
  | .clear => .clear
  | .count _ => .count
  | .heapinit => .heapinit
  | .merge => .merge
  | .build => .build
  | .gentable => .gentable
  | .encode _ => .encode
  | .decode _ => .decode
  | .decend => .decend
  | .ldbegin => .ldbegin
  | .ldent _ => .ldent
  | .ldend => .ldend
  | .rdfreq _ => .rdfreq
  | .rdnode _ => .rdnode
  | .rdcode _ => .rdcode

/-- The operand of a command as the number an assembler is given; `none` for form N (R80). -/
def Instr.operand : Instr → Option Nat
  | .nop | .clear | .heapinit | .merge | .build | .gentable | .decend | .ldbegin | .ldend => none
  | .count sym | .encode sym | .ldent sym => some sym.toNat
  | .decode chr => some chr.toNat
  | .rdfreq idx | .rdnode idx | .rdcode idx => some idx.toNat

/-- One line of the assembler: a mnemonic and the number written after it, if any (R80). -/
structure AsmLine where
  opcode  : Opcode
  operand : Option Nat
  deriving DecidableEq, Repr

/-- What the world outside the block can do to it. Accesses name a byte address and a width in bytes (R50,
R52); `poll` is R80's POLL, "read STATUS until BUSY = 0" (log 16); `reset` asserts the reset input (R230). -/
inductive HostAction where
  | read (addr bytes : Nat)
  | write (addr bytes : Nat) (value : Word)
  | poll
  | reset
  deriving DecidableEq, Repr

end Sys2Proof
end

