-- ==== Sys2Proof/WellFormed.lean ====
section
/-! DEFINITION. The checks on terms: build parameters (R7, R50), assembler lines (R82) and host accesses (R52).
A term of `Instr` needs no check of its own: its operands have exactly the widths of R71, so every one of them
is well formed. What the assembler refuses is checked where numbers are written, on `AsmLine`. -/

namespace Sys2Proof

/-- `2 <= N_MAX <= 32768` (R7) and a 256-byte-aligned window (R50). -/
def Build.WellFormed (b : Build) : Bool :=
  2 ≤ b.nMax && b.nMax ≤ 32768 && b.base % 256 == 0

/-- How many operand values a form's field holds (R71, R82); form N holds none. -/
def Form.capacity : Form → Nat
  | .none => 0
  | .symbol => 2 ^ 21
  | .character => 2 ^ 8
  | .index => 2 ^ 16

/-- R82: form N takes no operand; the other forms take one that fits its field. A symbol in
0x110000..0x1FFFFF fits and assembles. -/
def AsmLine.WellFormed (l : AsmLine) : Bool :=
  match l.opcode.form, l.operand with
  | .none, none => true
  | .none, some _ => false
  | _, none => false
  | f, some n => n < f.capacity

/-- The command an assembler line stands for; `none` where R82 refuses the line. -/
def AsmLine.assemble (l : AsmLine) : Option Instr :=
  if l.WellFormed then
    let n := l.operand.getD 0
    some <| match l.opcode with
      | .nop => .nop
      | .clear => .clear
      | .count => .count (BitVec.ofNat 21 n)
      | .heapinit => .heapinit
      | .merge => .merge
      | .build => .build
      | .gentable => .gentable
      | .encode => .encode (BitVec.ofNat 21 n)
      | .decode => .decode (BitVec.ofNat 8 n)
      | .decend => .decend
      | .ldbegin => .ldbegin
      | .ldent => .ldent (BitVec.ofNat 21 n)
      | .ldend => .ldend
      | .rdfreq => .rdfreq (BitVec.ofNat 16 n)
      | .rdnode => .rdnode (BitVec.ofNat 16 n)
      | .rdcode => .rdcode (BitVec.ofNat 16 n)
  else none

/-- The assembler line of a command. -/
def Instr.asmLine (i : Instr) : AsmLine := { opcode := i.opcode, operand := i.operand }

/-- A command is well formed when its assembler line is (true of every term of `Instr`). -/
def Instr.WellFormed (i : Instr) : Bool := i.asmLine.WellFormed

/-- The accesses R52 defines, in the window of R50. -/
def HostAction.WellFormed (b : Build) : HostAction → Bool
  | .read addr bytes | .write addr bytes _ =>
    b.base ≤ addr && addr < b.base + 256 && bytes == 4 && (addr - b.base) % 4 == 0
  | .poll | .reset => true

end Sys2Proof
end

