-- ==== Sys2Proof/Decode.lean ====
section
/-! DEFINITION. Decoding, total on every 32-bit word (R75), and the encoder written from the same tables
(R70-R72). -/

namespace Sys2Proof

/-- What a word is: an assigned command, an assigned opcode with a reserved bit set, or an unassigned
opcode (R74). -/
inductive Decoded where
  | cmd (i : Instr)
  | reserved
  | illegal
  deriving DecidableEq, Repr

/-- The opcode numbers of R72. -/
def Opcode.bits : Opcode → BitVec 8
  | .nop => 0x00#8
  | .clear => 0x01#8
  | .count => 0x10#8
  | .heapinit => 0x20#8
  | .merge => 0x21#8
  | .build => 0x22#8
  | .gentable => 0x30#8
  | .encode => 0x40#8
  | .decode => 0x50#8
  | .decend => 0x51#8
  | .ldbegin => 0x60#8
  | .ldent => 0x61#8
  | .ldend => 0x62#8
  | .rdfreq => 0x70#8
  | .rdnode => 0x71#8
  | .rdcode => 0x72#8

/-- Every opcode, in the order of R72's table. -/
def Opcode.all : List Opcode :=
  [.nop, .clear, .count, .heapinit, .merge, .build, .gentable, .encode,
   .decode, .decend, .ldbegin, .ldent, .ldend, .rdfreq, .rdnode, .rdcode]

/-- The assigned opcode with this number, if any; the other 240 numbers are illegal (R73). -/
def Opcode.ofBits? (op : BitVec 8) : Option Opcode :=
  Opcode.all.find? fun o => o.bits == op

/-- The reserved bits of IMM for each form (R71). -/
def Form.reservedMask : Form → BitVec 24
  | .none => 0xFFFFFF#24
  | .symbol => 0xE00000#24
  | .character => 0xFFFF00#24
  | .index => 0xFF0000#24

/-- The symbol field of form S, the character field of form C and the index field of form X (R71). -/
def immSymbol (imm : BitVec 24) : Symbol := imm.extractLsb' 0 21
def immCharacter (imm : BitVec 24) : Byte := imm.extractLsb' 0 8
def immIndex (imm : BitVec 24) : Index := imm.extractLsb' 0 16

/-- `Cmd(op, operand)` of R75. -/
def Opcode.instr (imm : BitVec 24) : Opcode → Instr
  | .nop => .nop
  | .clear => .clear
  | .count => .count (immSymbol imm)
  | .heapinit => .heapinit
  | .merge => .merge
  | .build => .build
  | .gentable => .gentable
  | .encode => .encode (immSymbol imm)
  | .decode => .decode (immCharacter imm)
  | .decend => .decend
  | .ldbegin => .ldbegin
  | .ldent => .ldent (immSymbol imm)
  | .ldend => .ldend
  | .rdfreq => .rdfreq (immIndex imm)
  | .rdnode => .rdnode (immIndex imm)
  | .rdcode => .rdcode (immIndex imm)

/-- OP and IMM of a command word (R70). -/
def opField (w : Word) : BitVec 8 := w.extractLsb' 24 8
def immField (w : Word) : BitVec 24 := w.extractLsb' 0 24

/-- R75's `decode`. -/
def decode (w : Word) : Decoded :=
  match Opcode.ofBits? (opField w) with
  | none => .illegal
  | some o => if immField w &&& o.form.reservedMask = 0#24 then .cmd (o.instr (immField w)) else .reserved

/-- IMM of a command, its reserved bits 0 (R71, R82). -/
def Instr.imm : Instr → BitVec 24
  | .nop | .clear | .heapinit | .merge | .build | .gentable | .decend | .ldbegin | .ldend => 0#24
  | .count sym | .encode sym | .ldent sym => sym.setWidth 24
  | .decode chr => chr.setWidth 24
  | .rdfreq idx | .rdnode idx | .rdcode idx => idx.setWidth 24

/-- The command word `(OP << 24) | IMM` of R72. -/
def encode (i : Instr) : Word := i.opcode.bits ++ i.imm

/-- The host's question about the opcode table: the instruction read from the word `w`, numbered as the table
numbers its bits. A command is one 32-bit word (R70), so bits above 31 have no place in one. -/
def decodeTableWord (nbits w : Nat) : Option Instr :=
  if w % 2 ^ nbits < 2 ^ 32 then
    match decode (BitVec.ofNat 32 (w % 2 ^ nbits)) with
    | .cmd i => some i
    | .reserved | .illegal => none
  else none

end Sys2Proof
end

