-- ==== Sys2Proof/Machine/State.lean ====
section
/-! DEFINITION. The state of the block (spec/10_state.md R20-R41) with the host's script beside it, the reasons a
step can stop, and the state after reset. -/

namespace Sys2Proof.Machine

/-- The phases of R30; the values 5-7 of STATUS.PHASE never occur (R23). -/
inductive Phase where
  | count | merge | tree | table | load
  deriving DecidableEq, Repr

/-- The error codes of R201; codes 14-31 are never latched. -/
inductive Err where
  | noError | illegalOp | reservedField | phase | invalidSymbol | tableFull | countOverflow
  | unmappableSymbol | truncatedPayload | badEntry | badPayloadChar | accOverflow | indexRange | codeTooLong
  deriving DecidableEq, Repr

/-- An entry of the frequency table (R31). -/
structure FreqEntry where
  sym   : Symbol
  count : Word
  deriving DecidableEq, Repr

/-- An entry of the node arena (R32). -/
inductive Node where
  | leaf (weight : Word) (sym : Symbol)
  | internal (weight : Word) (left right : Index)
  deriving DecidableEq, Repr

/-- A codeword or partial codeword `(len, val)` (R13, R34, R79). -/
structure Codeword where
  len : BitVec 7
  val : BitVec 64
  deriving DecidableEq, Repr

/-- An entry of the code table (R33). -/
structure CodeEntry where
  sym  : Symbol
  word : Codeword
  deriving DecidableEq, Repr

/-- Everything the spec gives the block (R20), then the model's own fields: the host's script and what its reads
have returned, the place of the next completion in that script, and the counter of free draws (log 3-6). Tables
hold their live entries only (R41), so NSYM, NNODE, NCODE and HEAPN are their lengths (log 9). -/
structure State where
  build   : Build
  cmd     : Word
  arg0    : Word
  arg1    : Word
  arg2    : Word
  res0    : Word
  res1    : Word
  res2    : Word
  phase   : Phase
  freq    : List FreqEntry
  total   : Word
  node    : List Node
  heap    : List Index
  root    : Option Index
  code    : List CodeEntry
  acc     : Codeword
  err     : Err
  errcmd  : Word
  ovr     : Bool
  symv    : Bool
  pending : Option Word
  todo    : List HostAction
  seen    : List Word
  delay   : Nat
  draws   : Nat
  deriving DecidableEq, Repr

/-- Why the machine is stuck. Both are raised only in states that no run from reset reaches (log 11); each is
safe: the model stops where the spec gives no effect. -/
inductive Fault where
  /-- Raised by MERGE and BUILD when HEAP has fewer than two members or names a node that is not live, which
  R39 rules out in P_MERGE. Safe. -/
  | stuckMerge
  /-- Raised by GENTABLE when NODE and ROOT do not form the tree of R115 over the leaves. Safe. -/
  | stuckTree
  deriving DecidableEq, Repr

/-- Why a step has no meaning. -/
inductive Refusal where
  /-- Raised by a command whose meaning is not written yet. Safe. No command of this model raises it. -/
  | notModelled (mnemonic : String)
  /-- Raised by a host access that is not a 32-bit access at a multiple of 4, which R52 has the model refuse.
  Safe. -/
  | undefinedAccess (addr bytes : Nat)
  /-- Raised by a host access outside the window, which the platform and not the block answers (R50, R63).
  Safe. -/
  | outsideWindow (addr : Nat)
  deriving DecidableEq, Repr

/-- The outcome of one step of the block. -/
abbrev Result := Host.Outcome State Fault Refusal

/-- The empty accumulator (R34). -/
def Codeword.empty : Codeword := { len := 0#7, val := 0#64 }

/-- The state after hardware reset of a given build (R40), with a host that has nothing to do (log 6). -/
def State.resetOf (b : Build) : State where
  build := b
  cmd := 0#32
  arg0 := 0#32
  arg1 := 0#32
  arg2 := 0#32
  res0 := 0#32
  res1 := 0#32
  res2 := 0#32
  phase := .count
  freq := []
  total := 0#32
  node := []
  heap := []
  root := none
  code := []
  acc := .empty
  err := .noError
  errcmd := 0#32
  ovr := false
  symv := false
  pending := none
  todo := []
  seen := []
  delay := 0
  draws := 0

/-- The machine right after reset, of the reference build (R7, R40; log 1, log 2). -/
def State.reset : State := State.resetOf Config.referenceBuild

end Sys2Proof.Machine
end

