-- ==== Sys2Proof/Machine/Flags.lean ====
section
/-! DEFINITION. The status fields and every register the host can read (spec/10_state.md R21-R29), as views of
the state. -/

namespace Sys2Proof.Machine

/-- The PHASE field of STATUS (R30). -/
def Phase.bits : Phase → BitVec 3
  | .count => 0#3
  | .merge => 1#3
  | .tree => 2#3
  | .table => 3#3
  | .load => 4#3

/-- The ERR field of STATUS (R201). -/
def Err.bits : Err → BitVec 5
  | .noError => 0#5
  | .illegalOp => 1#5
  | .reservedField => 2#5
  | .phase => 3#5
  | .invalidSymbol => 4#5
  | .tableFull => 5#5
  | .countOverflow => 6#5
  | .unmappableSymbol => 7#5
  | .truncatedPayload => 8#5
  | .badEntry => 9#5
  | .badPayloadChar => 10#5
  | .accOverflow => 11#5
  | .indexRange => 12#5
  | .codeTooLong => 13#5

/-- BUSY: a command is pending (R38). -/
def State.busy (s : State) : Bool := s.pending.isSome

/-- ERRF: an error is latched (R23). -/
def State.errf (s : State) : Bool := s.err != .noError

/-- The word `STATUS` of R23 while nothing is pending, and the word the free bits replace while BUSY (R64). -/
def State.status (s : State) : Word :=
  0#19 ++ s.err.bits ++ 0#1 ++ s.phase.bits ++ BitVec.ofBool s.errf ++ BitVec.ofBool s.ovr ++
    BitVec.ofBool s.symv ++ BitVec.ofBool s.busy

/-- `CFG` (R22): `[15:0] N_MAX`, `[23:16] L_MAX`, `[31:24] 0`. -/
def State.cfg (s : State) : Word :=
  0#8 ++ BitVec.ofNat 8 Config.lMax ++ BitVec.ofNat 16 s.build.nMax

/-- The counts of live entries (R27, log 9). -/
def State.nsym (s : State) : Nat := s.freq.length
def State.nnode (s : State) : Nat := s.node.length
def State.ncode (s : State) : Nat := s.code.length
def State.heapn (s : State) : Nat := s.heap.length

/-- A count register: the count in `[15:0]`, zeros above (R27). -/
def countRegister (n : Nat) : Word := zext32 (BitVec.ofNat 16 n)

/-- `ROOT` (R28): ROOTV and the index, or 0. -/
def State.rootRegister (s : State) : Word :=
  match s.root with
  | some k => 1#1 ++ 0#15 ++ k
  | none => 0#32

/-- `ACCLEN`, `ACCLO` and `ACCHI` (R29). -/
def State.accLen (s : State) : Word := zext32 s.acc.len
def State.accLo (s : State) : Word := s.acc.val.extractLsb' 0 32
def State.accHi (s : State) : Word := s.acc.val.extractLsb' 32 32

end Sys2Proof.Machine
end

