-- ==== Sys2Proof/Machine/Ops.lean ====
section
/-! DEFINITION. The operations the commands share: the latch check, the phase check and the completion of
spec/40_control.md R90, the error entry of spec/60_exceptions.md R204 and the two ways out of it (R206), the
operations on the tables, and the result registers. -/

namespace Sys2Proof.Machine

/-- The word the current completion carries out: PENDING, which CMD equals while a command is pending (R24,
R231; log 13). -/
def State.commandWord (s : State) : Word := s.pending.getD s.cmd

/-- The end of R90: `SYMV <- SYMV_next`, `PENDING <- none`. -/
def finish (emitted : Bool) (s : State) : State := { s with symv := emitted, pending := none }

/-- A command dropped because the latch is set: no state changes but SYMV and PENDING (R205). -/
def dropCommand (s : State) : State := finish false s

/-- Error entry (R204): the latch takes the code and the whole command word; nothing else of the command
takes effect. -/
def raiseError (e : Err) (s : State) : State :=
  { s with err := e, errcmd := s.commandWord, symv := false, pending := none }

/-- The frequency table, the arena, the heap, the code table and the accumulator emptied, as CLEAR and LDBEGIN
both do (R92, R160). -/
def emptyTables (s : State) : State :=
  { s with
    freq := []
    total := 0#32
    node := []
    heap := []
    root := none
    code := []
    acc := .empty }

/-- The return from an error by CLEAR (R92, R206). -/
def clearBlock (s : State) : State :=
  { emptyTables s with
    phase := .count
    res0 := 0#32
    res1 := 0#32
    res2 := 0#32
    err := .noError
    errcmd := 0#32
    ovr := false }

/-- Hardware reset (R230): every piece of the block's state at its value of R40. The build, the host's script,
what the host has seen and the draws already made are not the block's (log 6, log 17). -/
def resetBlock (s : State) : State :=
  { State.resetOf s.build with todo := s.todo, seen := s.seen, draws := s.draws }

/-- What a command's body answers: the state after its writes, the same with a decoded symbol emitted
(`SYMV_next`, R150), an error raised with no write done (R13), or a stuck state (log 11). -/
inductive Body where
  | done (s : State)
  | emitted (s : State)
  | raises (e : Err)
  | stuck (f : Fault)
  deriving DecidableEq, Repr

/-- The commands that run while an error is latched (R90, R205). -/
def runsLatched : Instr → Bool
  | .nop | .clear => true
  | .count _ | .heapinit | .merge | .build | .gentable | .encode _ | .decode _ | .decend
  | .ldbegin | .ldent _ | .ldend | .rdfreq _ | .rdnode _ | .rdcode _ => false

/-- The phases that accept each command (R30). -/
def accepts (p : Phase) : Instr → Bool
  | .nop | .clear | .ldbegin | .rdfreq _ | .rdnode _ | .rdcode _ => true
  | .count _ | .heapinit => p == .count
  | .merge => p == .merge
  | .build => p == .count || p == .merge
  | .gentable => p == .tree
  | .encode _ | .decode _ | .decend => p == .table
  | .ldent _ | .ldend => p == .load

/-- The end of a command whose body answered `b` from state `s` (R90, R204). -/
def completeBody (s : State) (b : Body) : Result :=
  match b with
  | .done t => .next (finish false t)
  | .emitted t => .next (finish true t)
  | .raises e => .next (raiseError e s)
  | .stuck f => .fault f

/-- R90 for a decoded command: dropped while the latch is set unless it is NOP or CLEAR, PHASE where the phase
does not accept it, else its body. -/
def command (i : Instr) (body : State → Body) (s : State) : Result :=
  if s.errf && !runsLatched i then .next (dropCommand s)
  else if !accepts s.phase i then .next (raiseError .phase s)
  else completeBody s (body s)

/-- R90 for a word that is no command: dropped while the latch is set, else the error. -/
def rejectWord (e : Err) (s : State) : Result :=
  if s.errf then .next (dropCommand s) else .next (raiseError e s)

/-- `RES0 <- a; RES1 <- b; RES2 <- c` (R26, R78). -/
def setResults (a b c : Word) (s : State) : State := { s with res0 := a, res1 := b, res2 := c }

/-- A word is a symbol when it is a code point (R9). -/
def isSymbol (sym : Symbol) : Bool := sym ≤ Config.maxSymbol

/-- The weight of a node (R32). -/
def Node.weight : Node → Word
  | .leaf w _ => w
  | .internal w _ _ => w

/-- The weight in the heap key of node `k` (R111). It is read of live nodes only. -/
def weightAt (nodes : List Node) (k : Index) : Nat :=
  match nodes[k.toNat]? with
  | some n => n.weight.toNat
  | none => 0

/-- Key order of R111: lighter first, then the smaller index. -/
def keyBefore (nodes : List Node) (j k : Index) : Bool :=
  weightAt nodes j < weightAt nodes k || (weightAt nodes j == weightAt nodes k && j.toNat < k.toNat)

/-- The member of a heap with the least key (R111). -/
def leastMember (nodes : List Node) : List Index → Option Index
  | [] => none
  | k :: ks =>
    match leastMember nodes ks with
    | none => some k
    | some m => if keyBefore nodes m k then some m else some k

/-- `extractMin(HEAP)` (R13, R111): the member with the least key, and the heap without it. -/
def extractMin (nodes : List Node) (heap : List Index) : Option (Index × List Index) :=
  (leastMember nodes heap).map fun k => (k, heap.erase k)

/-- `HEAP ∪ {k}` in the rising order that is the heap's one form (R35, log 10). -/
def heapInsert (k : Index) : List Index → List Index
  | [] => [k]
  | j :: js => if k.toNat < j.toNat then k :: j :: js else if k = j then j :: js else j :: heapInsert k js

/-- A heap all of whose members are live nodes. -/
def heapLive (nodes : List Node) (heap : List Index) : Bool :=
  heap.all fun k => k.toNat < nodes.length

end Sys2Proof.Machine
end

