-- ==== Sys2Proof/Machine/Operands.lean ====
section
/-! DEFINITION. The operands outside the command word (spec/30_encoding.md R76, R77), the codewords they form
(R13, R79), and the result layouts (R78). The operand fields of the command word itself are read in Decode. -/

namespace Sys2Proof.Machine

/-- The codeword bit a payload character stands for (R77). -/
def charBit (chr : Byte) : Option Bool :=
  if chr = 0x30#8 then some false
  else if chr = 0x31#8 then some true
  else none

/-- The payload character of a codeword bit (R83). -/
def bitChar (b : Bool) : Byte := if b then 0x31#8 else 0x30#8

/-- `append(acc, b)` of R13: `(alen + 1, 2*aval + b)`. -/
def Codeword.append (a : Codeword) (b : Bool) : Codeword :=
  { len := a.len + 1#7, val := (a.val <<< 1) ||| (BitVec.ofBool b).setWidth 64 }

/-- The bits of a codeword, first bit first: `val[len-1]` down to `val[0]` (R79, R83). -/
def Codeword.bits (c : Codeword) : List Bool :=
  (List.range c.len.toNat).reverse.map fun i => c.val.getLsbD i

/-- A codeword as the payload characters the host emits for it (R83). -/
def Codeword.chars (c : Codeword) : List Byte := c.bits.map bitChar

/-- The codeword a string of bits spells (R79, R81's LDE). -/
def Codeword.ofBits (bs : List Bool) : Codeword := bs.foldl Codeword.append .empty

/-- What R33 asks of a codeword in the table: `1 <= len <= 64` and `val < 2^len`. -/
def Codeword.valid (c : Codeword) : Bool :=
  1 ≤ c.len.toNat && c.len.toNat ≤ Config.lMax && c.val.toNat < 2 ^ c.len.toNat

/-- LDENT's codeword: value `{ARG1, ARG0}`, length `ARG2[6:0]` (R76). -/
def State.argWord (s : State) : Codeword :=
  { len := s.arg2.extractLsb' 0 7, val := s.arg1 ++ s.arg0 }

/-- `ARG2[31:7]`, which must be 0 (R76). -/
def State.argReserved (s : State) : BitVec 25 := s.arg2.extractLsb' 7 25

/-- The two value words of a codeword (R78). -/
def Codeword.lo (c : Codeword) : Word := c.val.extractLsb' 0 32
def Codeword.hi (c : Codeword) : Word := c.val.extractLsb' 32 32

/-- The code layout of RES2: `(sym << 8) | len` (R78). -/
def codeLayout (sym : Symbol) (len : BitVec 7) : Word := (zext32 sym <<< 8) ||| zext32 len

/-- RES2 of RDNODE for a leaf: bit 31 set (R78). -/
def leafMark : Word := 0x80000000#32

/-- The three result words of ENCODE and RDCODE for a code-table entry (R78). -/
def setCodeResults (e : CodeEntry) (s : State) : State :=
  setResults e.word.lo e.word.hi (codeLayout e.sym e.word.len) s

/-- The live code-table entry of a symbol (R140). -/
def State.codeOf (s : State) (sym : Symbol) : Option CodeEntry := s.code.find? fun e => e.sym == sym

/-- The live code-table entry whose codeword equals the accumulated bits (R150). -/
def State.entryOf (s : State) (c : Codeword) : Option CodeEntry := s.code.find? fun e => e.word == c

end Sys2Proof.Machine
end

