-- ==== Sys2Proof/Machine/Bus.lean ====
section
/-! DEFINITION. The host's side: the register window (spec/20_memory.md R50-R54, R57, R64), the handshake
(spec/70_reset_and_hazards.md R231, spec/60_exceptions.md R208) and the actions of the host's script. -/

namespace Sys2Proof.Machine

/-- The registers of the window (10_state.md's register map). -/
inductive Reg where
  | id | cfg | status | cmd | arg0 | arg1 | arg2 | res0 | res1 | res2
  | nsym | nnode | ncode | heapn | root | total | acclen | acclo | acchi | errcmd
  deriving DecidableEq, Repr

/-- The byte offset of each register (10_state.md's register map). -/
def Reg.offset : Reg → Nat
  | .id => 0x00
  | .cfg => 0x04
  | .status => 0x08
  | .cmd => 0x0C
  | .arg0 => 0x10
  | .arg1 => 0x14
  | .arg2 => 0x18
  | .res0 => 0x20
  | .res1 => 0x24
  | .res2 => 0x28
  | .nsym => 0x30
  | .nnode => 0x34
  | .ncode => 0x38
  | .heapn => 0x3C
  | .root => 0x40
  | .total => 0x44
  | .acclen => 0x48
  | .acclo => 0x4C
  | .acchi => 0x50
  | .errcmd => 0x54

/-- Every register, in the order of the map. -/
def Reg.all : List Reg :=
  [.id, .cfg, .status, .cmd, .arg0, .arg1, .arg2, .res0, .res1, .res2,
   .nsym, .nnode, .ncode, .heapn, .root, .total, .acclen, .acclo, .acchi, .errcmd]

/-- The register at an offset; `none` at the reserved offsets of R53. -/
def Reg.atOffset? (offset : Nat) : Option Reg := Reg.all.find? fun r => r.offset == offset

/-- The value a register shows (R21-R29). -/
def State.readReg (s : State) : Reg → Word
  | .id => Config.idValue
  | .cfg => s.cfg
  | .status => s.status
  | .cmd => s.cmd
  | .arg0 => s.arg0
  | .arg1 => s.arg1
  | .arg2 => s.arg2
  | .res0 => s.res0
  | .res1 => s.res1
  | .res2 => s.res2
  | .nsym => countRegister s.nsym
  | .nnode => countRegister s.nnode
  | .ncode => countRegister s.ncode
  | .heapn => countRegister s.heapn
  | .root => s.rootRegister
  | .total => s.total
  | .acclen => s.accLen
  | .acclo => s.accLo
  | .acchi => s.accHi
  | .errcmd => s.errcmd

/-- The bits of a register that a read returns as defined while a command is pending (R64). -/
def Reg.definedWhileBusy : Reg → Word
  | .id | .cfg | .cmd | .arg0 | .arg1 | .arg2 => 0xFFFFFFFF#32
  | .status => 0x00000001#32
  | .res0 | .res1 | .res2 | .nsym | .nnode | .ncode | .heapn | .root | .total
  | .acclen | .acclo | .acchi | .errcmd => 0#32

/-- The word a host read of a register returns: while a command is pending the undefined bits are any value,
a free draw (R64, log 5). -/
def State.hostReads (s : State) (r : Reg) : Word :=
  if s.busy then
    (s.readReg r &&& r.definedWhileBusy) ||| (Config.freeRead s.draws &&& ~~~ r.definedWhileBusy)
  else s.readReg r

/-- The word a host read at an offset returns; a reserved offset reads 0 whether or not BUSY (R53, log 8). -/
def State.readsAt (s : State) (offset : Nat) : Word :=
  match Reg.atOffset? offset with
  | some r => s.hostReads r
  | none => 0#32

/-- Byte lane `j` of a register access: bits `[8*j+7 : 8*j]` (R51). -/
def byteLane (j : Nat) (v : Word) : Byte := v.extractLsb' (8 * j) 8

/-- A host read: the block keeps its state (R57); the host has seen one more value, one draw is used. -/
def hostRead (offset : Nat) (s : State) : State :=
  { s with seen := s.readsAt offset :: s.seen, draws := s.draws + 1 }

/-- A CMD write while nothing is pending issues the command (R231); when it will complete is a free draw
(log 4). -/
def issueCommand (w : Word) (s : State) : State :=
  { s with cmd := w, pending := some w, delay := Config.freeDelay s.draws, draws := s.draws + 1 }

/-- A CMD or ARG write while a command is pending is dropped and sets OVR (R208). -/
def overrun (s : State) : State := { s with ovr := true }

/-- A host write to a register: CMD issues, ARG0-ARG2 store, both overrun while BUSY (R24, R25, R57, R208);
writes to the read-only registers are ignored (R54). -/
def writeReg (r : Reg) (v : Word) (s : State) : State :=
  match r with
  | .cmd => if s.busy then overrun s else issueCommand v s
  | .arg0 => if s.busy then overrun s else { s with arg0 := v }
  | .arg1 => if s.busy then overrun s else { s with arg1 := v }
  | .arg2 => if s.busy then overrun s else { s with arg2 := v }
  | .id | .cfg | .status | .res0 | .res1 | .res2 | .nsym | .nnode | .ncode | .heapn | .root | .total
  | .acclen | .acclo | .acchi | .errcmd => s

/-- A host write at an offset; reserved offsets ignore it and do not set OVR (R53). -/
def hostWrite (offset : Nat) (v : Word) (s : State) : State :=
  match Reg.atOffset? offset with
  | some r => writeReg r v s
  | none => s

/-- Where an access lands: an offset in the window, or the reason the step is refused (R50, R52, log 15). -/
inductive Access where
  | window (offset : Nat)
  | refused (r : Refusal)
  deriving DecidableEq, Repr

/-- The access check of R50 and R52. -/
def State.access (s : State) (addr bytes : Nat) : Access :=
  if addr < s.build.base || s.build.base + 256 ≤ addr then .refused (.outsideWindow addr)
  else if bytes ≠ 4 || (addr - s.build.base) % 4 ≠ 0 then .refused (.undefinedAccess addr bytes)
  else .window (addr - s.build.base)

/-- The host takes its next action off its script; a pending command is one host action nearer to its
completion (log 4). -/
def State.advance (s : State) (rest : List HostAction) : State :=
  { s with todo := rest, delay := s.delay - 1 }

/-- One host action, `rest` being the script after it. A POLL reads STATUS and stays at the head of the script
while BUSY reads 1 (R80, R236, log 16). -/
def hostAct (a : HostAction) (rest : List HostAction) (s : State) : Result :=
  match a with
  | .read addr bytes =>
    match s.access addr bytes with
    | .window offset => .next (hostRead offset (s.advance rest))
    | .refused r => .refused r
  | .write addr bytes v =>
    match s.access addr bytes with
    | .window offset => .next (hostWrite offset v (s.advance rest))
    | .refused r => .refused r
  | .poll => .next (hostRead Reg.status.offset (s.advance (if s.busy then .poll :: rest else rest)))
  | .reset => .next (resetBlock (s.advance rest))

/-- Who moves next (R59, R232): the sequencer when a command is pending and its time has come or the host has
nothing left to do, else the host, else nobody (log 4, log 7). -/
inductive Turn where
  | sequencer (w : Word)
  | host (a : HostAction) (rest : List HostAction)
  | idle
  deriving DecidableEq, Repr

/-- The agent whose turn it is. -/
def State.turn (s : State) : Turn :=
  match s.pending, s.todo with
  | none, [] => .idle
  | none, a :: rest => .host a rest
  | some w, [] => .sequencer w
  | some w, a :: rest => if s.delay = 0 then .sequencer w else .host a rest

/-- The state in which the sequencer completes the word `w` next: `w` issued and its time come (log 3). -/
def presentCommand (w : Word) (s : State) : State :=
  { s with cmd := w, pending := some w, delay := 0 }

end Sys2Proof.Machine
end

