-- ==== Sys2Proof/Machine/Codegen.lean ====
section
/-! DEFINITION. GENTABLE (spec/43_codegen.md R130). -/

namespace Sys2Proof.Machine

/-- A codeword before it is known to fit 64 bits: lengths are unbounded inside the traversal (R130). -/
structure Path where
  leaf : Index
  len  : Nat
  val  : Nat
  deriving DecidableEq, Repr

/-- `path(k, len, val)` of R130, depth first, left before right. A child's index is below its parent's (R32),
so the number of live nodes bounds the depth; `none` where the nodes do not form a tree (log 11, log 18). -/
def pathsFrom (nodes : List Node) : Nat → Index → Nat → Nat → Option (List Path)
  | 0, _, _, _ => none
  | fuel + 1, k, len, val =>
    match nodes[k.toNat]? with
    | none => none
    | some (.leaf _ _) => some [{ leaf := k, len := len, val := val }]
    | some (.internal _ l r) =>
      match pathsFrom nodes fuel l (len + 1) (2 * val), pathsFrom nodes fuel r (len + 1) (2 * val + 1) with
      | some ps, some qs => some (ps ++ qs)
      | _, _ => none

/-- `P(i)` of R130: the path of leaf `i`. -/
def pathOf (ps : List Path) (i : Nat) : Option Path := ps.find? fun p => p.leaf.toNat == i

/-- The code-table entry of leaf `i` (R130). -/
def entryOfLeaf (nodes : List Node) (ps : List Path) (i : Nat) : Option CodeEntry :=
  match nodes[i]?, pathOf ps i with
  | some (.leaf _ sym), some p =>
    some { sym := sym, word := { len := BitVec.ofNat 7 p.len, val := BitVec.ofNat 64 p.val } }
  | _, _ => none

/-- The entries of the leaves listed, in the order of the list (R130). -/
def codeEntries (nodes : List Node) (ps : List Path) : List Nat → Option (List CodeEntry)
  | [] => some []
  | i :: is =>
    match entryOfLeaf nodes ps i, codeEntries nodes ps is with
    | some e, some es => some (e :: es)
    | _, _ => none

/-- `path(ROOT, 0, 0)` (R130). -/
def rootPaths (s : State) : Option (List Path) :=
  match s.root with
  | some k => pathsFrom s.node s.node.length k 0 0
  | none => none

/-- Some leaf lies deeper than 64 edges (R130, R132). -/
def tooLong (ps : List Path) : Bool := ps.any fun p => Config.lMax < p.len

/-- The table of a tree with two or more leaves (R130). -/
def tableOfTree (s : State) : Body :=
  match rootPaths s with
  | none => .stuck .stuckTree
  | some ps =>
    if tooLong ps then .raises .codeTooLong
    else
      match codeEntries s.node ps (List.range s.freq.length) with
      | none => .stuck .stuckTree
      | some es => .done { s with code := es, acc := .empty, phase := .table }

/-- `body(GENTABLE)` (R130): the empty table, the one-symbol fallback "0", or the tree's paths. -/
def bodyGentable (s : State) : Body :=
  match s.freq with
  | [] => .done { s with code := [], acc := .empty, phase := .table }
  | [e] =>
    .done { s with code := [{ sym := e.sym, word := { len := 1#7, val := 0#64 } }], acc := .empty, phase := .table }
  | _ => tableOfTree s

/-- GENTABLE (R130). -/
def execGentable (s : State) : Result := command .gentable bodyGentable s

end Sys2Proof.Machine
end

