-- ==== Sys2Proof/Machine/Coding.lean ====
section
/-! DEFINITION. ENCODE (spec/44_encode.md R140), DECODE and DECEND (spec/45_decode.md R150, R151). -/

namespace Sys2Proof.Machine

/-- `body(ENCODE sym)` (R140). -/
def bodyEncode (sym : Symbol) (s : State) : Body :=
  if !isSymbol sym then .raises .invalidSymbol
  else
    match s.codeOf sym with
    | none => .raises .unmappableSymbol
    | some e => .done (setCodeResults e s)

/-- ENCODE (R140). -/
def execEncode (sym : Symbol) (s : State) : Result := command (.encode sym) (bodyEncode sym) s

/-- One codeword bit into the accumulator (R150): a match emits the symbol and empties it. -/
def decodeBit (b : Bool) (s : State) : Body :=
  let a := s.acc.append b
  match s.entryOf a with
  | some e => .emitted (setResults (zext32 e.sym) 0#32 0#32 { s with acc := .empty })
  | none => .done { s with acc := a }

/-- `body(DECODE chr)` (R150): the character check, then the full accumulator, then the bit. -/
def bodyDecode (chr : Byte) (s : State) : Body :=
  match charBit chr with
  | none => .raises .badPayloadChar
  | some b => if s.acc.len = 64#7 then .raises .accOverflow else decodeBit b s

/-- DECODE (R150). -/
def execDecode (chr : Byte) (s : State) : Result := command (.decode chr) (bodyDecode chr) s

/-- `body(DECEND)` (R151). -/
def bodyDecend (s : State) : Body :=
  if s.acc.len = 0#7 then .done s else .raises .truncatedPayload

/-- DECEND (R151). -/
def execDecend (s : State) : Result := command .decend bodyDecend s

end Sys2Proof.Machine
end

