-- ==== Sys2Proof/Machine/Control.lean ====
section
/-! DEFINITION. NOP and CLEAR (spec/40_control.md R91, R92). -/

namespace Sys2Proof.Machine

/-- `body(NOP)` (R91). -/
def bodyNop (s : State) : Body := .done s

/-- NOP (R91). -/
def execNop (s : State) : Result := command .nop bodyNop s

/-- `body(CLEAR)` (R92). -/
def bodyClear (s : State) : Body := .done (clearBlock s)

/-- CLEAR (R92). -/
def execClear (s : State) : Result := command .clear bodyClear s

end Sys2Proof.Machine
end

