-- ==== Sys2Proof/Machine/Count.lean ====
section
/-! DEFINITION. COUNT (spec/41_count.md R100, R101). -/

namespace Sys2Proof.Machine

/-- A live entry holds the symbol (R100). -/
def hasSymbol (sym : Symbol) (freq : List FreqEntry) : Bool := freq.any fun e => e.sym == sym

/-- `FREQ[i].count <- FREQ[i].count + 1` at the first entry of the symbol; the entry is unique (R31). -/
def bumpCount (sym : Symbol) : List FreqEntry → List FreqEntry
  | [] => []
  | e :: es => if e.sym = sym then { e with count := e.count + 1#32 } :: es else e :: bumpCount sym es

/-- `body(COUNT sym)` (R100): a new symbol is appended, so entries stand in first-occurrence order (R101). -/
def bodyCount (sym : Symbol) (s : State) : Body :=
  if !isSymbol sym then .raises .invalidSymbol
  else if hasSymbol sym s.freq then
    if s.total = 0xFFFFFFFF#32 then .raises .countOverflow
    else .done { s with freq := bumpCount sym s.freq, total := s.total + 1#32 }
  else if s.build.nMax ≤ s.freq.length then .raises .tableFull
  else if s.total = 0xFFFFFFFF#32 then .raises .countOverflow
  else .done { s with freq := s.freq ++ [{ sym := sym, count := 1#32 }], total := s.total + 1#32 }

/-- COUNT (R100). -/
def execCount (sym : Symbol) (s : State) : Result := command (.count sym) (bodyCount sym) s

end Sys2Proof.Machine
end

