-- ==== Sys2Proof/Machine/Readback.lean ====
section
/-! DEFINITION. RDFREQ, RDNODE and RDCODE (spec/47_readback.md R170-R172). -/

namespace Sys2Proof.Machine

/-- `body(RDFREQ idx)` (R170). -/
def bodyRdfreq (idx : Index) (s : State) : Body :=
  match s.freq[idx.toNat]? with
  | none => .raises .indexRange
  | some e => .done (setResults e.count (zext32 e.sym) 0#32 s)

/-- RDFREQ (R170). -/
def execRdfreq (idx : Index) (s : State) : Result := command (.rdfreq idx) (bodyRdfreq idx) s

/-- `body(RDNODE idx)` (R171). -/
def bodyRdnode (idx : Index) (s : State) : Body :=
  match s.node[idx.toNat]? with
  | none => .raises .indexRange
  | some (.leaf w sym) => .done (setResults w (zext32 sym) leafMark s)
  | some (.internal w l r) => .done (setResults w (zext32 l) (zext32 r) s)

/-- RDNODE (R171). -/
def execRdnode (idx : Index) (s : State) : Result := command (.rdnode idx) (bodyRdnode idx) s

/-- `body(RDCODE idx)` (R172). -/
def bodyRdcode (idx : Index) (s : State) : Body :=
  match s.code[idx.toNat]? with
  | none => .raises .indexRange
  | some e => .done (setCodeResults e s)

/-- RDCODE (R172). -/
def execRdcode (idx : Index) (s : State) : Result := command (.rdcode idx) (bodyRdcode idx) s

end Sys2Proof.Machine
end

