-- ==== Sys2Proof/Machine/TableLoad.lean ====
section
/-! DEFINITION. LDBEGIN, LDENT and LDEND (spec/46_table_load.md R160-R162). -/

namespace Sys2Proof.Machine

/-- `body(LDBEGIN)` (R160). -/
def bodyLdbegin (s : State) : Body := .done { emptyTables s with phase := .load }

/-- LDBEGIN (R160). -/
def execLdbegin (s : State) : Result := command .ldbegin bodyLdbegin s

/-- The entry LDENT refuses with BAD_ENTRY (R161): ARG2's reserved bits, a codeword that is none, a symbol
already loaded, a codeword already loaded. -/
def badEntry (sym : Symbol) (s : State) : Bool :=
  s.argReserved != 0#25 || !s.argWord.valid || (s.codeOf sym).isSome || (s.entryOf s.argWord).isSome

/-- `body(LDENT sym)` (R161). -/
def bodyLdent (sym : Symbol) (s : State) : Body :=
  if !isSymbol sym then .raises .invalidSymbol
  else if badEntry sym s then .raises .badEntry
  else if s.build.nMax ≤ s.code.length then .raises .tableFull
  else .done { s with code := s.code ++ [{ sym := sym, word := s.argWord }] }

/-- LDENT (R161). -/
def execLdent (sym : Symbol) (s : State) : Result := command (.ldent sym) (bodyLdent sym) s

/-- `body(LDEND)` (R162). -/
def bodyLdend (s : State) : Body := .done { s with acc := .empty, phase := .table }

/-- LDEND (R162). -/
def execLdend (s : State) : Result := command .ldend bodyLdend s

end Sys2Proof.Machine
end

