-- ==== Sys2Proof/Machine/Tree.lean ====
section
/-! DEFINITION. HEAPINIT, MERGE and BUILD (spec/42_tree.md R110-R114). -/

namespace Sys2Proof.Machine

/-- The leaf of a frequency-table entry (R110). -/
def FreqEntry.leaf (e : FreqEntry) : Node := .leaf e.count e.sym

/-- The heap `{0, 1, ..., n-1}` (R110). -/
def fullHeap (n : Nat) : List Index := (List.range n).map (BitVec.ofNat 16)

/-- `body(HEAPINIT)` (R110). -/
def heapInit (s : State) : State :=
  let t := { s with node := s.freq.map FreqEntry.leaf, heap := fullHeap s.freq.length }
  match s.freq.length with
  | 0 => { t with root := none, phase := .tree }
  | 1 => { t with root := some 0#16, phase := .tree }
  | _ => { t with phase := .merge }

/-- `body(HEAPINIT)` as a command's body. -/
def bodyHeapinit (s : State) : Body := .done (heapInit s)

/-- HEAPINIT (R110). -/
def execHeapinit (s : State) : Result := command .heapinit bodyHeapinit s

/-- The state after merging `x` (extracted first, left) and `y` (second, right) out of the heap, which leaves
`rest` (R112). The weight is the sum of the two weights (R113, log 12). -/
def joinNodes (x y : Index) (rest : List Index) (s : State) : State :=
  let k := BitVec.ofNat 16 s.node.length
  let w := BitVec.ofNat 32 (weightAt s.node x + weightAt s.node y)
  let heap := heapInsert k rest
  let t := setResults w (zext32 x) (zext32 y)
    { s with node := s.node ++ [.internal w x y], heap := heap }
  if heap.length = 1 then { t with root := some k, phase := .tree } else t

/-- `body(MERGE)` (R112): extract twice, join. `none` where the heap cannot give two live nodes (log 11). -/
def mergeOnce (s : State) : Option State :=
  if heapLive s.node s.heap then
    match extractMin s.node s.heap with
    | none => none
    | some (x, rest) =>
      match extractMin s.node rest with
      | none => none
      | some (y, rest') => some (joinNodes x y rest' s)
  else none

/-- `body(MERGE)` as a command's body. -/
def bodyMerge (s : State) : Body :=
  match mergeOnce s with
  | some t => .done t
  | none => .stuck .stuckMerge

/-- MERGE (R112). -/
def execMerge (s : State) : Result := command .merge bodyMerge s

/-- `while PHASE = P_MERGE: body(MERGE)` (R114). Each merge takes one member out of the heap, so the number of
members bounds the loop (log 18). -/
def mergeLoop : Nat → State → Option State
  | fuel, s =>
    if s.phase = .merge then
      match fuel with
      | 0 => none
      | fuel + 1 =>
        match mergeOnce s with
        | some t => mergeLoop fuel t
        | none => none
    else some s

/-- `body(BUILD)` (R114). -/
def bodyBuild (s : State) : Body :=
  let t := if s.phase = .count then heapInit s else s
  match mergeLoop t.heap.length t with
  | some u => .done u
  | none => .stuck .stuckMerge

/-- BUILD (R114). -/
def execBuild (s : State) : Result := command .build bodyBuild s

end Sys2Proof.Machine
end

