-- ==== Sys2Proof/Machine/Dispatch.lean ====
section
/-! DEFINITION. One arm per command: the completion of a decoded command (spec/40_control.md R90). -/

namespace Sys2Proof.Machine

def exec (i : Instr) (s : State) : Host.Outcome State Fault Refusal :=
  match i with
  | .nop => Sys2Proof.Machine.execNop s
  | .clear => Sys2Proof.Machine.execClear s
  | .count sym => Sys2Proof.Machine.execCount sym s
  | .heapinit => Sys2Proof.Machine.execHeapinit s
  | .merge => Sys2Proof.Machine.execMerge s
  | .build => Sys2Proof.Machine.execBuild s
  | .gentable => Sys2Proof.Machine.execGentable s
  | .encode sym => Sys2Proof.Machine.execEncode sym s
  | .decode chr => Sys2Proof.Machine.execDecode chr s
  | .decend => Sys2Proof.Machine.execDecend s
  | .ldbegin => Sys2Proof.Machine.execLdbegin s
  | .ldent sym => Sys2Proof.Machine.execLdent sym s
  | .ldend => Sys2Proof.Machine.execLdend s
  | .rdfreq idx => Sys2Proof.Machine.execRdfreq idx s
  | .rdnode idx => Sys2Proof.Machine.execRdnode idx s
  | .rdcode idx => Sys2Proof.Machine.execRdcode idx s

end Sys2Proof.Machine
end

