-- ==== Sys2Proof/Machine/Complete.lean ====
section
/-! DEFINITION. The sequencer's completion step on a command word (spec/40_control.md R90,
spec/70_reset_and_hazards.md R232). -/

namespace Sys2Proof.Machine

/-- `complete(w)` (R90): a decoded command is carried out by `exec`; the other words raise ILLEGAL_OP or
RESERVED_FIELD, or are dropped while the latch is set. -/
def complete (w : Word) (s : State) : Result :=
  match decode w with
  | .cmd i => exec i s
  | .illegal => rejectWord .illegalOp s
  | .reserved => rejectWord .reservedField s

end Sys2Proof.Machine
end

