-- ==== Sys2Proof/Machine/Step.lean ====
section
/-! DEFINITION. One step of the machine: a completion of the sequencer or an action of the host
(spec/20_memory.md R59, spec/70_reset_and_hazards.md R232). -/

namespace Sys2Proof.Machine

/-- One step. With nothing pending and no host action left the block waits for a CMD write (R230, log 7). -/
def step (s : State) : Host.Outcome State Fault Refusal :=
  match s.turn with
  | .sequencer w => complete w s
  | .host a rest => hostAct a rest s
  | .idle => .next s

/-- The state whose very next step carries out the command word `w` (log 3): a command word is not fetched, it
is PENDING after a CMD write (R61, R231). -/
def State.withFetchWord (s : State) (nbits w : Nat) : State :=
  presentCommand (BitVec.ofNat 32 (w % 2 ^ nbits)) s

end Sys2Proof.Machine
end

