-- ==== Sys2Proof/Machine/Container.lean ====
section
/-! DEFINITION. The container text of spec/49_host_container.md R180-R184: host software around the block (R6),
given for the driver model (log 19). Bytes are UTF-8 (R180). -/

namespace Sys2Proof.Machine

/-- What a host driver reports (R182, R187): the source's five errors, the symbols the line form cannot hold,
a block error that has no counterpart in the source, or a block that stopped. -/
inductive HostError where
  | sourceUnavailable
  | malformedContainer
  | tableDeserializationError
  | unmappableSymbol
  | truncatedPayload
  | unserializableSymbol
  | block (e : Err)
  | blockStopped
  deriving DecidableEq, Repr

/-- The characters the container is made of (K4's ASCII codes). -/
def lineFeed : Byte := 0x0A#8
def carriageReturn : Byte := 0x0D#8
def space : Byte := 0x20#8
def tab : Byte := 0x09#8
def colon : Byte := 0x3A#8

/-- `Header Section start`, 20 characters (R180, R184). -/
def startMarker : List Byte :=
  [0x48#8, 0x65#8, 0x61#8, 0x64#8, 0x65#8, 0x72#8, space, 0x53#8, 0x65#8, 0x63#8, 0x74#8, 0x69#8, 0x6F#8, 0x6E#8,
   space, 0x73#8, 0x74#8, 0x61#8, 0x72#8, 0x74#8]

/-- `Header Section end` (R180, R184). -/
def endMarker : List Byte :=
  [0x48#8, 0x65#8, 0x61#8, 0x64#8, 0x65#8, 0x72#8, space, 0x53#8, 0x65#8, 0x63#8, 0x74#8, 0x69#8, 0x6F#8, 0x6E#8,
   space, 0x65#8, 0x6E#8, 0x64#8]

/-- A byte from a number below 256. -/
def byteOf (n : Nat) : Byte := BitVec.ofNat 8 n

/-- UTF-8 of a code point (PRESUMED: the standard encoding, K3; log 19). A surrogate, which UTF-8 cannot encode, gets
the three bytes of its pattern (DESIGN CHOICE: R181 and R182 leave open what the writer does with one; log 24), which
`utf8One` refuses. -/
def utf8Encode (sym : Symbol) : List Byte :=
  let n := sym.toNat
  if n < 0x80 then [byteOf n]
  else if n < 0x800 then [byteOf (0xC0 + n / 64), byteOf (0x80 + n % 64)]
  else if n < 0x10000 then [byteOf (0xE0 + n / 4096), byteOf (0x80 + n / 64 % 64), byteOf (0x80 + n % 64)]
  else [byteOf (0xF0 + n / 262144), byteOf (0x80 + n / 4096 % 64), byteOf (0x80 + n / 64 % 64), byteOf (0x80 + n % 64)]

/-- The surrogates, which UTF-8 cannot encode (R188, K3). -/
def isSurrogate (sym : Symbol) : Bool := 0xD800 ≤ sym.toNat && sym.toNat ≤ 0xDFFF

/-- The number the payload bits of a UTF-8 sequence spell. -/
def utf8Value : List Byte → Option Nat
  | [a] => some a.toNat
  | [a, b] => some (a.toNat % 32 * 64 + b.toNat % 64)
  | [a, b, c] => some (a.toNat % 16 * 4096 + b.toNat % 64 * 64 + c.toNat % 64)
  | [a, b, c, d] => some (a.toNat % 8 * 262144 + b.toNat % 64 * 4096 + c.toNat % 64 * 64 + d.toNat % 64)
  | _ => none

/-- The one code point a byte string encodes, if it encodes exactly one (R184 step 2): a sequence is accepted
only if it is the encoding of its value, so overlong forms and surrogates are not. -/
def utf8One (bs : List Byte) : Option Symbol :=
  match utf8Value bs with
  | none => none
  | some n =>
    let sym : Symbol := BitVec.ofNat 21 n
    if isSymbol sym && !isSurrogate sym && utf8Encode sym == bs then some sym else none

/-- The length of the sequence a lead byte begins. -/
def utf8Length (lead : Byte) : Nat :=
  if lead.toNat < 0x80 then 1 else if lead.toNat < 0xE0 then 2 else if lead.toNat < 0xF0 then 3 else 4

/-- The code points of an input text (R185); `none` where it does not decode. -/
def utf8Decode : Nat → List Byte → Option (List Symbol)
  | _, [] => some []
  | 0, _ :: _ => none
  | fuel + 1, b :: bs =>
    match utf8One ((b :: bs).take (utf8Length b)), utf8Decode fuel ((b :: bs).drop (utf8Length b)) with
    | some sym, some rest => some (sym :: rest)
    | _, _ => none

/-- A symbol the line form cannot hold (R182). -/
def unserializable (sym : Symbol) : Bool := sym == 0x0A#21 || sym == 0x0D#21

/-- A table line (R181): symbol, colon, codeword characters, line feed. -/
def tableLine (e : CodeEntry) : List Byte := utf8Encode e.sym ++ [colon] ++ e.word.chars ++ [lineFeed]

/-- The container writer (R180-R183). -/
def writeContainer (es : List CodeEntry) (payload : List Byte) : Except HostError (List Byte) :=
  if es.any fun e => unserializable e.sym then .error .unserializableSymbol
  else
    .ok (startMarker ++ [space, lineFeed] ++ es.flatMap tableLine ++ endMarker ++ [space, lineFeed] ++ payload)

/-- The container split at its line feeds (R184). -/
def splitLines : List Byte → List (List Byte)
  | [] => [[]]
  | b :: bs =>
    if b = lineFeed then [] :: splitLines bs
    else
      match splitLines bs with
      | [] => [[b]]
      | l :: ls => (b :: l) :: ls

/-- A line without the carriage return before its line feed (R184). -/
def chompReturn (line : List Byte) : List Byte :=
  if line.getLast? = some carriageReturn then line.dropLast else line

/-- The lines before the first line that begins with a marker, and the lines after it (R184 step 1). -/
def splitAtMarker (marker : List Byte) : List (List Byte) → Option (List (List Byte) × List (List Byte))
  | [] => none
  | l :: ls =>
    if marker.isPrefixOf l then some ([], ls)
    else (splitAtMarker marker ls).map fun r => (l :: r.1, r.2)

/-- A line split at its last colon (R184 step 2). -/
def splitLastColon : List Byte → Option (List Byte × List Byte)
  | [] => none
  | b :: bs =>
    match splitLastColon bs with
    | some (l, r) => some (b :: l, r)
    | none => if b = colon then some ([], bs) else none

/-- The bits of a string of '0' and '1' characters (R77, R184). -/
def bitsOfChars : List Byte → Option (List Bool)
  | [] => some []
  | b :: bs =>
    match charBit b, bitsOfChars bs with
    | some x, some xs => some (x :: xs)
    | _, _ => none

/-- A table line read back (R184 step 2): one code point and 1 to 64 codeword characters. -/
def parseLine (line : List Byte) : Option CodeEntry :=
  match splitLastColon (chompReturn line) with
  | none => none
  | some (l, r) =>
    match utf8One l, bitsOfChars r with
    | some sym, some bs =>
      if 1 ≤ bs.length ∧ bs.length ≤ Config.lMax then some { sym := sym, word := Codeword.ofBits bs } else none
    | _, _ => none

/-- Every line between the markers read back, in order. -/
def parseTable : List (List Byte) → Option (List CodeEntry)
  | [] => some []
  | l :: ls =>
    match parseLine l, parseTable ls with
    | some e, some es => some (e :: es)
    | _, _ => none

/-- The whitespace trimmed around the payload (R184 step 3). -/
def isBlank (b : Byte) : Bool := b == space || b == tab || b == carriageReturn || b == lineFeed

/-- Leading and trailing whitespace removed (R184 step 3). -/
def trimBlanks (bs : List Byte) : List Byte :=
  ((bs.dropWhile isBlank).reverse.dropWhile isBlank).reverse

/-- The lines after the end marker joined again (R184 step 3); a carriage return stays in the payload (DEDUCED,
log 26). -/
def joinLines : List (List Byte) → List Byte
  | [] => []
  | [l] => l
  | l :: ls => l ++ lineFeed :: joinLines ls

/-- The container reader (R184): table entries in order, and the payload. Bytes outside the table lines need not be
UTF-8 (DESIGN CHOICE: R180 and R187 leave open whether they do; log 25). -/
def readContainer (text : List Byte) : Except HostError (List CodeEntry × List Byte) :=
  match splitAtMarker startMarker (splitLines text) with
  | none => .error .malformedContainer
  | some (_, afterStart) =>
    match splitAtMarker endMarker afterStart with
    | none => .error .malformedContainer
    | some (table, afterEnd) =>
      match parseTable table with
      | none => .error .tableDeserializationError
      | some es => .ok (es, trimBlanks (joinLines afterEnd))

end Sys2Proof.Machine
end

