-- ==== Sys2Proof/Machine/Driver.lean ====
section
/-! DEFINITION. The host driver of spec/49_host_container.md R185-R187 over the block, and the assembler's
pseudo-instructions as host scripts (spec/30_encoding.md R80, R81). Host software (R6, log 19): the block's step
does not use it. -/

namespace Sys2Proof.Machine

/-- `CMD X` (R81): write the word to CMD, then POLL. -/
def cmdScript (b : Build) (i : Instr) : List HostAction :=
  [.write (b.base + Reg.cmd.offset) 4 (encode i), .poll]

/-- `COUNTS`, `ENCODES` and `DECODES` (R81). -/
def countsScript (b : Build) (text : List Symbol) : List HostAction := text.flatMap fun c => cmdScript b (.count c)
def encodesScript (b : Build) (text : List Symbol) : List HostAction := text.flatMap fun c => cmdScript b (.encode c)
def decodesScript (b : Build) (chars : List Byte) : List HostAction := chars.flatMap fun c => cmdScript b (.decode c)

/-- `LDE sym, "bits"` (R81). -/
def ldeScript (b : Build) (e : CodeEntry) : List HostAction :=
  [.write (b.base + Reg.arg0.offset) 4 e.word.lo, .write (b.base + Reg.arg1.offset) 4 e.word.hi,
   .write (b.base + Reg.arg2.offset) 4 (zext32 e.word.len)] ++ cmdScript b (.ldent e.sym)

/-- The boot check of R234 (b): read ID and CFG. -/
def bootScript (b : Build) : List HostAction :=
  [.read (b.base + Reg.id.offset) 4, .read (b.base + Reg.cfg.offset) 4]

/-- What the boot check finds in the values its reads returned (newest first): the identity of R21, and `N_MAX` of
CFG (R22); `none` where the block is not this one. -/
def bootCheck : List Word → Option Nat
  | cfg :: id :: _ => if id = Config.idValue then some (cfg.extractLsb' 0 16).toNat else none
  | _ => none

/-- The source's error behind a block error, by the command that raised it (R187). -/
def hostErrorOf : Opcode → Err → HostError
  | .ldent, .phase => .malformedContainer
  | .ldend, .phase => .malformedContainer
  | .ldent, .invalidSymbol => .tableDeserializationError
  | .ldent, .badEntry => .tableDeserializationError
  | .ldent, .tableFull => .tableDeserializationError
  | .encode, .unmappableSymbol => .unmappableSymbol
  | .decend, .truncatedPayload => .truncatedPayload
  | .decode, .badPayloadChar => .truncatedPayload
  | .decode, .accOverflow => .truncatedPayload
  | _, e => .block e

/-- The state after the pending command has completed (what a POLL waits for, R236). -/
def completed (s : State) : Except HostError State :=
  match s.pending with
  | none => .ok s
  | some w =>
    match complete w s with
    | .next t => .ok t
    | .fault _ => .error .blockStopped
    | .refused _ => .error .blockStopped

/-- One command of a driver (R185, R236): write CMD, poll until BUSY = 0, check ERR. -/
def runCommand (i : Instr) (s : State) : Except HostError State :=
  match completed (writeReg .cmd (encode i) s) with
  | .error e => .error e
  | .ok t => if t.err = .noError then .ok t else .error (hostErrorOf i.opcode t.err)

/-- Commands one after another, up to the first error (R185). -/
def runCommands : List Instr → State → Except HostError State
  | [], s => .ok s
  | i :: is, s =>
    match runCommand i s with
    | .error e => .error e
    | .ok t => runCommands is t

/-- The code-table entry the result registers show (R78): symbol `RES2[28:8]`, codeword `(RES2[6:0], {RES1, RES0})`. -/
def State.resultEntry (s : State) : CodeEntry :=
  { sym := s.res2.extractLsb' 8 21, word := { len := s.res2.extractLsb' 0 7, val := s.res1 ++ s.res0 } }

/-- The table as the writer reads it (R181): `RDCODE i` for each `i` listed. -/
def readTable : List Nat → State → Except HostError (List CodeEntry × State)
  | [], s => .ok ([], s)
  | i :: is, s =>
    match runCommand (.rdcode (BitVec.ofNat 16 i)) s with
    | .error e => .error e
    | .ok t =>
      match readTable is t with
      | .error e => .error e
      | .ok (es, u) => .ok (t.resultEntry :: es, u)

/-- Pass 2 of an encode (R183, R185): the codeword characters of each symbol, in order. -/
def encodeAll : List Symbol → State → Except HostError (List Byte × State)
  | [], s => .ok ([], s)
  | c :: cs, s =>
    match runCommand (.encode c) s with
    | .error e => .error e
    | .ok t =>
      match encodeAll cs t with
      | .error e => .error e
      | .ok (payload, u) => .ok (t.resultEntry.word.chars ++ payload, u)

/-- The encode sequence (R185): the container of a text, or the error that stopped it with no output. -/
def encodeSequence (text : List Symbol) (s : State) : Except HostError (List Byte × State) :=
  match runCommands (.clear :: text.map .count ++ [.build, .gentable]) s with
  | .error e => .error e
  | .ok t =>
    match readTable (List.range t.ncode) t with
    | .error e => .error e
    | .ok (es, u) =>
      match encodeAll text u with
      | .error e => .error e
      | .ok (payload, v) =>
        match writeContainer es payload with
        | .error e => .error e
        | .ok out => .ok (out, v)

/-- `LDE` (R81): the ARG writes, then LDENT. -/
def loadEntry (e : CodeEntry) (s : State) : Except HostError State :=
  runCommand (.ldent e.sym)
    (writeReg .arg2 (zext32 e.word.len) (writeReg .arg1 e.word.hi (writeReg .arg0 e.word.lo s)))

/-- The table loaded entry by entry (R186). -/
def loadEntries : List CodeEntry → State → Except HostError State
  | [], s => .ok s
  | e :: es, s =>
    match loadEntry e s with
    | .error h => .error h
    | .ok t => loadEntries es t

/-- LDBEGIN, the entries, LDEND (R186). -/
def loadTable (es : List CodeEntry) (s : State) : Except HostError State :=
  match runCommand .ldbegin s with
  | .error e => .error e
  | .ok t =>
    match loadEntries es t with
    | .error e => .error e
    | .ok u => runCommand .ldend u

/-- The payload fed character by character (R186); RES0 is a symbol of the output when SYMV = 1. -/
def decodeAll : List Byte → State → Except HostError (List Symbol × State)
  | [], s => .ok ([], s)
  | ch :: chs, s =>
    match runCommand (.decode ch) s with
    | .error e => .error e
    | .ok t =>
      match decodeAll chs t with
      | .error e => .error e
      | .ok (out, u) => .ok (if t.symv then t.res0.extractLsb' 0 21 :: out else out, u)

/-- A payload decoded to its end (R186, R238): DECODE for each character, then DECEND. -/
def decodePayload (payload : List Byte) (s : State) : Except HostError (List Symbol × State) :=
  match decodeAll payload s with
  | .error e => .error e
  | .ok (out, t) =>
    match runCommand .decend t with
    | .error e => .error e
    | .ok u => .ok (out, u)

/-- The decode sequence (R186): the symbols of a container's text, or the error, with all output discarded. -/
def decodeSequence (container : List Byte) (s : State) : Except HostError (List Symbol × State) :=
  match readContainer container with
  | .error e => .error e
  | .ok (es, payload) =>
    match loadTable es s with
    | .error e => .error e
    | .ok t => decodePayload payload t

/-- An encode from a byte text (R185): text that does not decode is the host's SourceUnavailable (R187). -/
def encodeText (text : List Byte) (s : State) : Except HostError (List Byte × State) :=
  match utf8Decode text.length text with
  | none => .error .sourceUnavailable
  | some cs => encodeSequence cs s

/-- A decode to a byte text (R186): the UTF-8 of the emitted symbols in order. It never answers `sourceUnavailable`: a
container that is not UTF-8 outside its table lines is read on (DESIGN CHOICE, log 25). -/
def decodeText (container : List Byte) (s : State) : Except HostError (List Byte × State) :=
  match decodeSequence container s with
  | .error e => .error e
  | .ok (out, t) => .ok (out.flatMap utf8Encode, t)

end Sys2Proof.Machine
end

