-- ==== Sys2Proof/Safety.lean ====
section
/-! DEFINITION. What a safe state of the block is: the invariants the spec states for its tables, its phases and
its latch (spec/10_state.md R30-R39, spec/42_tree.md R113, R115, spec/43_codegen.md R131), and the notions the
statements are written in. -/

namespace Sys2Proof.Machine

/-- Nothing is latched and the phase accepts the command, so its body runs (R90). -/
def State.Ready (s : State) (i : Instr) : Prop := s.err = .noError ∧ accepts s.phase i = true

/-- The frequency table (R31): at most `N_MAX` entries, symbols code points and pairwise distinct, counts
positive, and TOTAL their sum. -/
structure State.FreqOk (s : State) : Prop where
  size     : s.freq.length ≤ s.build.nMax
  distinct : (s.freq.map FreqEntry.sym).Nodup
  positive : ∀ e ∈ s.freq, 0 < e.count.toNat
  symbols  : ∀ e ∈ s.freq, isSymbol e.sym = true
  sum      : (s.freq.map fun e => e.count.toNat).sum = s.total.toNat

/-- The latch, the pending command and SYMV (R37, R38, R24): no recorded command without an error; a pending word
is what CMD shows; SYMV only right after a DECODE that emitted, which leaves the accumulator empty. -/
structure State.LatchOk (s : State) : Prop where
  recorded : s.err = .noError → s.errcmd = 0#32
  pending  : ∀ w, s.pending = some w → s.cmd = w
  emitted  : s.symv = true → s.err = .noError ∧ s.phase = .table ∧ s.acc = .empty

/-- The accumulator (R34, R39): at most 64 bits, none above its length, empty outside P_TABLE. -/
structure State.AccOk (s : State) : Prop where
  length : s.acc.len.toNat ≤ 64
  value  : s.acc.val.toNat < 2 ^ s.acc.len.toNat
  phase  : s.phase ≠ .table → s.acc = .empty

/-- Node `k` is an internal node over two different earlier nodes, with the sum of their weights (R32). -/
def internalOk (nodes : List Node) (k : Nat) : Bool :=
  match nodes[k]? with
  | some (.internal w l r) =>
    decide (l.toNat < k) && decide (r.toNat < k) && l != r && w.toNat == weightAt nodes l + weightAt nodes r
  | some (.leaf _ _) => false
  | none => false

/-- The children of every internal node of the arena. -/
def childrenOf (nodes : List Node) : List Nat :=
  nodes.flatMap fun n =>
    match n with
    | .leaf _ _ => []
    | .internal _ l r => [l.toNat, r.toNat]

/-- The arena and the heap between merges (R32, R35, R115): the leaves of FREQ first, then internal nodes; the heap
rises; every node is either a member of the heap or the child of exactly one internal node; the weights of the
heap's members make up TOTAL (R113). -/
structure State.Forest (s : State) : Prop where
  leaves   : s.node.take s.freq.length = s.freq.map FreqEntry.leaf
  internal : ∀ k, s.freq.length ≤ k → k < s.node.length → internalOk s.node k = true
  rising   : s.heap.Pairwise fun j k => j.toNat < k.toNat
  owned    : (s.heap.map BitVec.toNat ++ childrenOf s.node).Perm (List.range s.node.length)
  weight   : (s.heap.map (weightAt s.node)).sum = s.total.toNat

/-- A completed tree, or the empty one (R36, R39's P_TREE row, R115). -/
structure State.TreeDone (s : State) : Prop where
  forest : s.Forest
  empty  : s.freq = [] → s.node = [] ∧ s.heap = [] ∧ s.root = none
  root   : s.freq ≠ [] → ∃ k, s.root = some k ∧ s.heap = [k] ∧ s.node.length = 2 * s.freq.length - 1 ∧
    k.toNat = s.node.length - 1

/-- No frequency table, no arena, no heap and no root, as LDBEGIN leaves them (R160, R39). -/
def State.NoTree (s : State) : Prop :=
  s.freq = [] ∧ s.total = 0#32 ∧ s.node = [] ∧ s.heap = [] ∧ s.root = none

/-- What R39 says of the tree state in each phase. -/
def State.TreeOk (s : State) : Prop :=
  match s.phase with
  | .count => s.node = [] ∧ s.heap = [] ∧ s.root = none ∧ s.code = []
  | .merge => s.Forest ∧ 2 ≤ s.heap.length ∧ s.root = none ∧ s.code = []
  | .tree => s.TreeDone ∧ s.code = []
  | .table => s.TreeDone ∧ s.code.length = s.freq.length ∨ s.NoTree
  | .load => s.NoTree

/-- No codeword of the table is a prefix of another, equal ones included (R16, R131). -/
def PrefixFree (es : List CodeEntry) : Prop :=
  es.Pairwise fun e f => ¬ e.word.bits <+: f.word.bits ∧ ¬ f.word.bits <+: e.word.bits

/-- The code table (R33), and what R131 (a) and (b) add for a generated one. -/
structure State.CodeOk (s : State) : Prop where
  size      : s.code.length ≤ s.build.nMax
  symbols   : ∀ e ∈ s.code, isSymbol e.sym = true
  valid     : ∀ e ∈ s.code, e.word.valid = true
  distinct  : (s.code.map CodeEntry.sym).Nodup
  codewords : (s.code.map CodeEntry.word).Nodup
  generated : s.phase = .table → s.freq ≠ [] →
    s.code.map CodeEntry.sym = s.freq.map FreqEntry.sym ∧ PrefixFree s.code

/-- The part of the invariant about the tree and what it rests on. -/
structure State.TreeInv (s : State) : Prop where
  build : s.build.WellFormed = true
  freq  : s.FreqOk
  tree  : s.TreeOk

/-- The block's invariant: every statement above, over a legal build (R7, R31-R39, R131). -/
structure State.Inv (s : State) : Prop where
  tree  : s.TreeInv
  latch : s.LatchOk
  acc   : s.AccOk
  code  : s.CodeOk

/-- The node a bit string leads to from node `k`: left on 0, right on 1 (R130). -/
def walk (nodes : List Node) : Index → List Bool → Option Index
  | k, [] => some k
  | k, b :: bs =>
    match nodes[k.toNat]? with
    | some (.internal _ l r) => walk nodes (if b then r else l) bs
    | some (.leaf _ _) => none
    | none => none

/-- Node `k` is a live leaf. -/
def leafAt (nodes : List Node) (k : Index) : Bool :=
  match nodes[k.toNat]? with
  | some (.leaf _ _) => true
  | some (.internal _ _ _) => false
  | none => false

/-- No leaf lies more than 64 edges below the root (R132). -/
def State.ShallowTree (s : State) : Prop :=
  ∀ r bs k, s.root = some r → walk s.node r bs = some k → leafAt s.node k = true → bs.length ≤ 64

/-- The state R204 leaves when the command word `w` raises `e` from state `s`: the latch taken, nothing else of the
command done. -/
def State.latches (s : State) (e : Err) (w : Word) : State :=
  { s with err := e, errcmd := w, symv := false, pending := none }

/-- The value of a form's reserved bits in a command word (R71). -/
def formReservedField (f : Form) (w : Word) : Nat :=
  match f with
  | .none => w.toNat % 2 ^ 24
  | .symbol => w.toNat / 2 ^ 21 % 2 ^ 3
  | .character => w.toNat / 2 ^ 8 % 2 ^ 16
  | .index => w.toNat / 2 ^ 16 % 2 ^ 8

/-- The value of a form's operand field in a command word (R71). -/
def formOperandField (f : Form) (w : Word) : Option Nat :=
  match f with
  | .none => none
  | .symbol => some (w.toNat % 2 ^ 21)
  | .character => some (w.toNat % 2 ^ 8)
  | .index => some (w.toNat % 2 ^ 16)

/-- Heap order of R111 as a proposition: lighter, or equally heavy with the smaller index. -/
def KeyLess (nodes : List Node) (j k : Index) : Prop :=
  weightAt nodes j < weightAt nodes k ∨ weightAt nodes j = weightAt nodes k ∧ j.toNat < k.toNat

/-- One command carried out `n` times, each from the state the one before it left. -/
def execTimes (i : Instr) : Nat → State → Result
  | 0, s => .next s
  | n + 1, s =>
    match exec i s with
    | .next t => execTimes i n t
    | .fault f => .fault f
    | .refused r => .refused r

/-- A script whose accesses R52 defines and that does not reset the block. -/
def quietScript (b : Build) (script : List HostAction) : Bool :=
  script.all fun a => a.WellFormed b && a != .reset

end Sys2Proof.Machine
end

