-- ==== Sys2Proof/Certificates/Slice0/Obligations.lean ====
section
/-! DEFINITION. The statements for the provers, in the order of spec/. A statement about a free value holds for every
value of it. -/

open Sys2Proof Sys2Proof.Machine

/-! ## Encoding (spec/30_encoding.md) -/

/-- R70-R72: no bit of an encoding is lost, and a word that decodes to a command is that command's only word. -/
def Obligations.DecodeAndEncodeAgree : Prop :=
  (∀ i : Instr, decode (encode i) = .cmd i) ∧ ∀ (w : Word) (i : Instr), decode w = .cmd i → encode i = w

/-- R75: what every 32-bit word is, in terms of its fields, and the error of a word that is no command. -/
def Obligations.EveryWordHasTheReadingOfItsFields : Prop :=
  (∀ w : Word,
    (∀ i : Instr, decode w = .cmd i ↔
      i.opcode.bits.toNat = w.toNat / 2 ^ 24 ∧ formReservedField i.opcode.form w = 0 ∧
        i.operand = formOperandField i.opcode.form w) ∧
    (decode w = .reserved ↔
      ∃ o : Opcode, o.bits.toNat = w.toNat / 2 ^ 24 ∧ formReservedField o.form w ≠ 0) ∧
    (decode w = .illegal ↔ ∀ o : Opcode, o.bits.toNat ≠ w.toNat / 2 ^ 24)) ∧
  ∀ (s : State) (w : Word), s.pending = some w → s.err = .noError →
    (decode w = .illegal → complete w s = .next (s.latches .illegalOp w)) ∧
    (decode w = .reserved → complete w s = .next (s.latches .reservedField w))

/-- R72's example words and one word of each other family. -/
def Obligations.WordsOfTheOpcodeTableDecode : Prop :=
  decode 0x00000000#32 = .cmd .nop ∧ decode 0x01000000#32 = .cmd .clear ∧
  decode 0x10000061#32 = .cmd (.count 0x61#21) ∧ decode 0x22000000#32 = .cmd .build ∧
  decode 0x30000000#32 = .cmd .gentable ∧ decode 0x40000062#32 = .cmd (.encode 0x62#21) ∧
  decode 0x50000031#32 = .cmd (.decode 0x31#8) ∧ decode 0x61000062#32 = .cmd (.ldent 0x62#21) ∧
  decode 0x71000004#32 = .cmd (.rdnode 4#16) ∧
  decode 0x02000000#32 = .illegal ∧ decode 0x10E00061#32 = .reserved

/-- R82: an assembler refuses an operand that does not fit, one too many and one too few, and places the others in
the low bits of IMM. -/
def Obligations.AssemblerPlacesTheOperandOrRefuses : Prop :=
  ∀ (o : Opcode) (n : Nat),
    (o.form = .none →
      (∃ i, AsmLine.assemble ⟨o, none⟩ = some i ∧ (encode i).toNat = o.bits.toNat * 2 ^ 24) ∧
      AsmLine.assemble ⟨o, some n⟩ = none) ∧
    (o.form ≠ .none → AsmLine.assemble ⟨o, none⟩ = none) ∧
    ((o.form = .symbol ∧ n ≤ 0x1FFFFF ∨ o.form = .character ∧ n ≤ 0xFF ∨ o.form = .index ∧ n ≤ 0xFFFF) →
      ∃ i, AsmLine.assemble ⟨o, some n⟩ = some i ∧ (encode i).toNat = o.bits.toNat * 2 ^ 24 + n) ∧
    ((o.form = .symbol ∧ 0x1FFFFF < n ∨ o.form = .character ∧ 0xFF < n ∨ o.form = .index ∧ 0xFFFF < n) →
      AsmLine.assemble ⟨o, some n⟩ = none)

/-! ## The step and the common completion (spec/40_control.md R90, spec/60_exceptions.md) -/

/-- R90, R232: the sequencer's step carries out the decoded command. When the step is the sequencer's is the model's
choice (log 4). -/
def Obligations.StepOfThePendingCommandIsExec : Prop :=
  ∀ (s : State) (w : Word) (i : Instr),
    s.pending = some w → (s.todo = [] ∨ s.delay = 0) → decode w = .cmd i → step s = exec i s

/-- R71, R73, R202: a word that is no command latches ILLEGAL_OP or RESERVED_FIELD, in every phase. -/
def Obligations.WordsThatAreNoCommandLatchTheirError : Prop :=
  ∀ (s : State) (w : Word), s.pending = some w → s.err = .noError →
    ((∀ o : Opcode, o.bits.toNat ≠ w.toNat / 2 ^ 24) → complete w s = .next (s.latches .illegalOp w)) ∧
    (∀ o : Opcode, o.bits.toNat = w.toNat / 2 ^ 24 → formReservedField o.form w ≠ 0 →
      complete w s = .next (s.latches .reservedField w))

/-- R30, R202: a command whose phase does not accept it raises PHASE, whatever its operand. -/
def Obligations.CommandsOutOfPhaseRaisePhase : Prop :=
  ∀ (s : State) (w : Word) (sym : Symbol) (chr : Byte), s.pending = some w → s.err = .noError →
    (s.phase ≠ .count →
      exec (.count sym) s = .next (s.latches .phase w) ∧ exec .heapinit s = .next (s.latches .phase w)) ∧
    (s.phase ≠ .merge → exec .merge s = .next (s.latches .phase w)) ∧
    (s.phase ≠ .count → s.phase ≠ .merge → exec .build s = .next (s.latches .phase w)) ∧
    (s.phase ≠ .tree → exec .gentable s = .next (s.latches .phase w)) ∧
    (s.phase ≠ .table →
      exec (.encode sym) s = .next (s.latches .phase w) ∧ exec (.decode chr) s = .next (s.latches .phase w) ∧
      exec .decend s = .next (s.latches .phase w)) ∧
    (s.phase ≠ .load →
      exec (.ldent sym) s = .next (s.latches .phase w) ∧ exec .ldend s = .next (s.latches .phase w))

/-- R204: a completion that latches an error changes nothing but the latch, SYMV and PENDING. -/
def Obligations.ErrorEntryIsPrecise : Prop :=
  ∀ (s t : State) (w : Word), s.pending = some w → s.err = .noError → complete w s = .next t →
    t.err ≠ .noError → t = s.latches t.err w

/-- R205: while an error is latched every word but NOP and CLEAR is dropped, and registers still read as they are. -/
def Obligations.LatchedErrorDropsEveryOtherWord : Prop :=
  ∀ s : State, s.err ≠ .noError →
    (∀ w : Word, w ≠ 0x00000000#32 → w ≠ 0x01000000#32 →
      complete w s = .next { s with symv := false, pending := none }) ∧
    (s.pending = none → ∀ r : Reg, s.hostReads r = s.readReg r)

/-- R200, R207: an error appears only at the completion of the command that ERRCMD then names, and only while none
is latched. -/
def Obligations.ErrorsComeFromCompletionsOnly : Prop :=
  ∀ s t : State, step s = .next t → t.err ≠ s.err → t.err ≠ .noError →
    s.err = .noError ∧ ∃ w, s.pending = some w ∧ t.errcmd = w ∧ complete w s = .next t

/-- R206: only CLEAR and reset leave the latch, and both empty every table. -/
def Obligations.OnlyClearAndResetLeaveTheLatch : Prop :=
  ∀ s t : State, step s = .next t → s.err ≠ .noError →
    t.err = s.err ∧ t.errcmd = s.errcmd ∨
    (s.pending = some 0x01000000#32 ∨ s.todo.head? = some .reset) ∧ t.err = .noError ∧ t.errcmd = 0#32 ∧
      t.freq = [] ∧ t.node = [] ∧ t.heap = [] ∧ t.root = none ∧ t.code = [] ∧ t.acc = .empty ∧ t.phase = .count

/-- R90, R25, R24: what no completion changes, whatever the command and whatever it raises. -/
def Obligations.CompletionsKeepOperandsAndHost : Prop :=
  ∀ (s t : State) (w : Word), complete w s = .next t →
    t.pending = none ∧ t.cmd = s.cmd ∧ t.arg0 = s.arg0 ∧ t.arg1 = s.arg1 ∧ t.arg2 = s.arg2 ∧ t.build = s.build ∧
    t.todo = s.todo ∧ t.seen = s.seen ∧ t.delay = s.delay ∧ t.draws = s.draws ∧
    (t.ovr = s.ovr ∨ w = 0x01000000#32)

/-- R26: the commands that write the result registers; CLEAR zeroes them, and BUILD writes them through its merges
(R114, log 23). -/
def Obligations.OnlyResultCommandsWriteResults : Prop :=
  ∀ (i : Instr) (s t : State), exec i s = .next t →
    i.opcode ∉ [.merge, .build, .encode, .decode, .rdfreq, .rdnode, .rdcode, .clear] →
    t.res0 = s.res0 ∧ t.res1 = s.res1 ∧ t.res2 = s.res2

/-- R37: SYMV is 1 after a completion only if that was a DECODE that emitted the symbol RES0 shows. -/
def Obligations.SymvMeansADecodeEmitted : Prop :=
  ∀ (s t : State) (w : Word), complete w s = .next t → t.symv = true →
    s.err = .noError ∧ s.phase = .table ∧ t.acc = .empty ∧
    ∃ chr e, decode w = .cmd (.decode chr) ∧ e ∈ s.code ∧ t.res0.toNat = e.sym.toNat

/-! ## Control (spec/40_control.md) -/

/-- R91: NOP completes in every phase, with an error latched or not, and changes nothing but SYMV and PENDING; with
IMM not 0 its word raises RESERVED_FIELD, or is dropped while an error is latched. -/
def Obligations.NopChangesOnlySymv : Prop :=
  (encode .nop).toNat = 0x00000000 ∧
  (∀ s : State, exec .nop s = .next { s with symv := false, pending := none }) ∧
  ∀ (s : State) (w : Word), s.pending = some w → w.toNat / 2 ^ 24 = 0x00 → w.toNat % 2 ^ 24 ≠ 0 →
    (s.err = .noError → complete w s = .next (s.latches .reservedField w)) ∧
    (s.err ≠ .noError → complete w s = .next { s with symv := false, pending := none })

/-- R92: CLEAR completes in every phase, with an error latched or not; CMD and ARG0-ARG2 keep their values; with IMM
not 0 its word raises RESERVED_FIELD, or is dropped while an error is latched. -/
def Obligations.ClearEmptiesTheBlock : Prop :=
  (encode .clear).toNat = 0x01000000 ∧
  (∀ s : State, exec .clear s = .next
    { s with phase := .count, freq := [], total := 0#32, node := [], heap := [], root := none, code := [],
             acc := { len := 0#7, val := 0#64 }, res0 := 0#32, res1 := 0#32, res2 := 0#32, err := .noError,
             errcmd := 0#32, ovr := false, symv := false, pending := none }) ∧
  ∀ (s : State) (w : Word), s.pending = some w → w.toNat / 2 ^ 24 = 0x01 → w.toNat % 2 ^ 24 ≠ 0 →
    (s.err = .noError → complete w s = .next (s.latches .reservedField w)) ∧
    (s.err ≠ .noError → complete w s = .next { s with symv := false, pending := none })

/-! ## Counting (spec/41_count.md) -/

/-- R100: COUNT's result and its errors in check order. -/
def Obligations.CountAddsOneOccurrence : Prop :=
  (∀ sym : Symbol, (encode (.count sym)).toNat = 0x10000000 + sym.toNat) ∧
  ∀ (s : State) (w : Word) (sym : Symbol), s.pending = some w → s.err = .noError →
    (s.phase ≠ .count → exec (.count sym) s = .next (s.latches .phase w)) ∧
    (s.phase = .count → 0x10FFFF < sym.toNat → exec (.count sym) s = .next (s.latches .invalidSymbol w)) ∧
    (s.phase = .count → sym.toNat ≤ 0x10FFFF →
      (∀ k c, s.freq[k]? = some { sym := sym, count := c } →
          (∀ j e, j < k → s.freq[j]? = some e → e.sym ≠ sym) →
        (s.total = 0xFFFFFFFF#32 → exec (.count sym) s = .next (s.latches .countOverflow w)) ∧
        (s.total ≠ 0xFFFFFFFF#32 → exec (.count sym) s = .next
          { s with freq := s.freq.set k { sym := sym, count := c + 1#32 }, total := s.total + 1#32,
                   symv := false, pending := none })) ∧
      ((∀ e ∈ s.freq, e.sym ≠ sym) →
        (s.build.nMax ≤ s.freq.length → exec (.count sym) s = .next (s.latches .tableFull w)) ∧
        (s.freq.length < s.build.nMax → s.total = 0xFFFFFFFF#32 →
          exec (.count sym) s = .next (s.latches .countOverflow w)) ∧
        (s.freq.length < s.build.nMax → s.total ≠ 0xFFFFFFFF#32 → exec (.count sym) s = .next
          { s with freq := s.freq ++ [{ sym := sym, count := 1#32 }], total := s.total + 1#32,
                   symv := false, pending := none })))

/-- R101: from an empty table, counting a text leaves its distinct symbols in the order of their first occurrence,
each with the number of its occurrences. The text is counted by the driver model (log 19). -/
def Obligations.CountingGivesFirstOccurrenceOrder : Prop :=
  ∀ (s t : State) (text : List Symbol), s.freq = [] → s.total = 0#32 → s.pending = none → s.err = .noError →
    runCommands (text.map .count) s = .ok t →
    t.freq.map FreqEntry.sym = text.reverse.dedup.reverse ∧
    (∀ e ∈ t.freq, e.count.toNat = text.count e.sym) ∧ t.total.toNat = text.length

/-! ## Tree building (spec/42_tree.md) -/

/-- R110: HEAPINIT's result, by the number of symbols, and its error. -/
def Obligations.HeapinitMakesTheLeaves : Prop :=
  (encode .heapinit).toNat = 0x20000000 ∧
  ∀ (s : State) (w : Word), s.pending = some w → s.err = .noError →
    (s.phase ≠ .count → exec .heapinit s = .next (s.latches .phase w)) ∧
    (s.phase = .count → exec .heapinit s = .next
      { s with node := s.freq.map (fun e => .leaf e.count e.sym),
               heap := (List.range s.freq.length).map (BitVec.ofNat 16),
               root := if s.freq.length = 0 then none else if s.freq.length = 1 then some 0#16 else s.root,
               phase := if s.freq.length ≤ 1 then .tree else .merge,
               symv := false, pending := none })

/-- R111: extraction takes the one member with the least (weight, index), however the heap is arranged. -/
def Obligations.ExtractMinTakesTheLeastKey : Prop :=
  ∀ (nodes : List Node) (heap : List Index),
    (heap ≠ [] → ∃ x, extractMin nodes heap = some (x, heap.erase x) ∧ x ∈ heap ∧
      ∀ k ∈ heap, k ≠ x → KeyLess nodes x k) ∧
    ∀ heap' : List Index, heap.Perm heap' →
      (extractMin nodes heap').map Prod.fst = (extractMin nodes heap).map Prod.fst

/-- R112: MERGE joins the two members with the least keys, the first as the left child. -/
def Obligations.MergeJoinsTheTwoLightest : Prop :=
  (encode .merge).toNat = 0x21000000 ∧
  ∀ (s : State) (w : Word), s.pending = some w → s.err = .noError →
    (s.phase ≠ .merge → exec .merge s = .next (s.latches .phase w)) ∧
    (s.phase = .merge → (∀ k ∈ s.heap, k.toNat < s.node.length) → s.heap.Nodup → 2 ≤ s.heap.length →
        s.node.length < 2 ^ 16 →
      ∃ x y t, x ∈ s.heap ∧ y ∈ s.heap ∧ x ≠ y ∧ (∀ k ∈ s.heap, k ≠ x → KeyLess s.node x k) ∧
        (∀ k ∈ s.heap, k ≠ x → k ≠ y → KeyLess s.node y k) ∧
        exec .merge s = .next t ∧
        t.node = s.node ++
          [.internal (BitVec.ofNat 32 (weightAt s.node x + weightAt s.node y)) x y] ∧
        (∀ k, k ∈ t.heap ↔ k ∈ s.heap ∧ k ≠ x ∧ k ≠ y ∨ k = BitVec.ofNat 16 s.node.length) ∧
        t.heap.length = s.heap.length - 1 ∧
        t.res0 = BitVec.ofNat 32 (weightAt s.node x + weightAt s.node y) ∧
        t.res1.toNat = x.toNat ∧ t.res2.toNat = y.toNat ∧
        (s.heap.length = 2 → t.root = some (BitVec.ofNat 16 s.node.length) ∧ t.phase = .tree) ∧
        (2 < s.heap.length → t.root = s.root ∧ t.phase = .merge) ∧
        t = { s with node := t.node, heap := t.heap, root := t.root, phase := t.phase, res0 := t.res0,
                     res1 := t.res1, res2 := t.res2, symv := false, pending := none })

/-- R113: a merge's weight is the exact sum of its children's and never exceeds TOTAL. -/
def Obligations.MergeWeightIsExact : Prop :=
  ∀ s : State, s.TreeInv → s.Ready .merge →
    ∃ t w x y, exec .merge s = .next t ∧ t.node = s.node ++ [.internal w x y] ∧
      w.toNat = weightAt s.node x + weightAt s.node y ∧ w.toNat ≤ s.total.toNat

/-- R114: BUILD is HEAPINIT, if it starts in P_COUNT, and then as many MERGEs as it takes. -/
def Obligations.BuildIsHeapinitAndMerges : Prop :=
  (encode .build).toNat = 0x22000000 ∧
  ∀ s : State, s.TreeInv → s.err = .noError →
    (s.phase = .merge → ∃ t, exec .build s = .next t ∧ execTimes .merge (s.heapn - 1) s = .next t ∧
      t.phase = .tree) ∧
    (s.phase = .count → ∃ h t, exec .heapinit s = .next h ∧ exec .build s = .next t ∧
      execTimes .merge (s.nsym - 1) h = .next t ∧ t.phase = .tree ∧
      (s.nsym ≤ 1 → t.res0 = s.res0 ∧ t.res1 = s.res1 ∧ t.res2 = s.res2)) ∧
    (s.phase ≠ .count → s.phase ≠ .merge → ∀ w, s.pending = some w →
      exec .build s = .next (s.latches .phase w))

/-- R114's inference: BUILD after HEAPINIT and some MERGEs gives what BUILD from P_COUNT gives. -/
def Obligations.PartlyMergedBuildGivesTheSameState : Prop :=
  ∀ (s h m : State) (n : Nat), s.TreeInv → s.Ready .heapinit → exec .heapinit s = .next h →
    execTimes .merge n h = .next m → m.err = .noError → m.phase = .merge →
    ∃ t, exec .build s = .next t ∧ exec .build m = .next t

/-- R115: the nodes BUILD leaves form one strict binary tree over the leaves, with the last node as its root. -/
def Obligations.BuildMakesOneStrictBinaryTree : Prop :=
  ∀ s : State, s.TreeInv → s.err = .noError → s.phase = .count → s.freq ≠ [] →
    ∃ t, exec .build s = .next t ∧ t.node.length = 2 * s.freq.length - 1 ∧
      t.root = some (BitVec.ofNat 16 (2 * s.freq.length - 2)) ∧
      (∀ k, k < s.freq.length → t.node[k]? = (s.freq[k]?).map FreqEntry.leaf) ∧
      (∀ k, s.freq.length ≤ k → k < t.node.length → internalOk t.node k = true) ∧
      ∀ k, k < t.node.length → (childrenOf t.node).count k = if k = 2 * s.freq.length - 2 then 0 else 1

/-- R115: once the tree is complete only CLEAR and LDBEGIN change a node. -/
def Obligations.CompletedTreeIsFrozen : Prop :=
  ∀ (i : Instr) (s t : State), s.phase = .tree ∨ s.phase = .table → exec i s = .next t →
    i ≠ .clear → i ≠ .ldbegin → t.node = s.node ∧ t.root = s.root ∧ t.freq = s.freq ∧ t.heap = s.heap

/-! ## Code-table generation (spec/43_codegen.md) -/

/-- R130: GENTABLE's result for the empty, the one-leaf and the larger tree, where entry `i` is the path from the
root to leaf `i`, and its errors. -/
def Obligations.GentableWritesTheTreePaths : Prop :=
  (encode .gentable).toNat = 0x30000000 ∧
  ∀ (s : State) (w : Word), s.TreeInv → s.pending = some w → s.err = .noError →
    (s.phase ≠ .tree → exec .gentable s = .next (s.latches .phase w)) ∧
    (s.phase = .tree → s.freq = [] → exec .gentable s = .next
      { s with code := [], acc := .empty, phase := .table, symv := false, pending := none }) ∧
    (∀ e, s.phase = .tree → s.freq = [e] → exec .gentable s = .next
      { s with code := [{ sym := e.sym, word := { len := 1#7, val := 0#64 } }], acc := .empty, phase := .table,
               symv := false, pending := none }) ∧
    (s.phase = .tree → 2 ≤ s.freq.length → s.ShallowTree → ∃ es r,
      exec .gentable s = .next
        { s with code := es, acc := .empty, phase := .table, symv := false, pending := none } ∧
      s.root = some r ∧ es.map CodeEntry.sym = s.freq.map FreqEntry.sym ∧
      ∀ k e, es[k]? = some e → e.word.valid = true ∧ walk s.node r e.word.bits = some (BitVec.ofNat 16 k)) ∧
    (s.phase = .tree → 2 ≤ s.freq.length → ¬ s.ShallowTree →
      exec .gentable s = .next (s.latches .codeTooLong w))

/-- R131: a generated table has one codeword for each symbol, is prefix free, is complete for two or more symbols,
and keeps the length bounds. -/
def Obligations.GeneratedTableIsACompletePrefixCode : Prop :=
  ∀ s t : State, s.TreeInv → s.Ready .gentable → exec .gentable s = .next t → t.err = .noError →
    t.code.map CodeEntry.sym = s.freq.map FreqEntry.sym ∧ (t.code.map CodeEntry.sym).Nodup ∧ PrefixFree t.code ∧
    (2 ≤ s.freq.length →
      (t.code.map fun e => 2 ^ (64 - e.word.len.toNat)).sum = 2 ^ 64 ∧
      (∀ bs : List Bool, 64 ≤ bs.length → ∃ e ∈ t.code, e.word.bits <+: bs) ∧
      ∀ e ∈ t.code, 1 ≤ e.word.len.toNat ∧ e.word.len.toNat ≤ s.freq.length - 1) ∧
    (s.freq.length = 1 → ∀ e ∈ t.code, e.word.bits = [false])

/-! ## Encoding and decoding symbols (spec/44_encode.md, spec/45_decode.md) -/

/-- R140: ENCODE's result and its errors in check order. -/
def Obligations.EncodeReturnsTheCodeword : Prop :=
  (∀ sym : Symbol, (encode (.encode sym)).toNat = 0x40000000 + sym.toNat) ∧
  ∀ (s : State) (w : Word) (sym : Symbol), s.pending = some w → s.err = .noError →
    (s.phase ≠ .table → exec (.encode sym) s = .next (s.latches .phase w)) ∧
    (s.phase = .table → 0x10FFFF < sym.toNat → exec (.encode sym) s = .next (s.latches .invalidSymbol w)) ∧
    (s.phase = .table → sym.toNat ≤ 0x10FFFF → (∀ e ∈ s.code, e.sym ≠ sym) →
      exec (.encode sym) s = .next (s.latches .unmappableSymbol w)) ∧
    (s.phase = .table → sym.toNat ≤ 0x10FFFF → (s.code.map CodeEntry.sym).Nodup → ∀ e ∈ s.code, e.sym = sym →
      exec (.encode sym) s = .next
        { s with res0 := BitVec.ofNat 32 e.word.val.toNat,
                 res1 := BitVec.ofNat 32 (e.word.val.toNat / 2 ^ 32),
                 res2 := BitVec.ofNat 32 (sym.toNat * 2 ^ 8 + e.word.len.toNat),
                 symv := false, pending := none })

/-- R150: DECODE's result, emitting or not, and its errors in check order. -/
def Obligations.DecodeFeedsOneBit : Prop :=
  (∀ chr : Byte, (encode (.decode chr)).toNat = 0x50000000 + chr.toNat) ∧
  ∀ (s : State) (w : Word) (chr : Byte), s.pending = some w → s.err = .noError →
    (s.phase ≠ .table → exec (.decode chr) s = .next (s.latches .phase w)) ∧
    (s.phase = .table → chr ≠ 0x30#8 → chr ≠ 0x31#8 →
      exec (.decode chr) s = .next (s.latches .badPayloadChar w)) ∧
    ∀ b : Nat, s.phase = .table → (chr = 0x30#8 ∧ b = 0 ∨ chr = 0x31#8 ∧ b = 1) →
      (s.acc.len = 64#7 → exec (.decode chr) s = .next (s.latches .accOverflow w)) ∧
      (s.acc.len.toNat < 64 → s.acc.val.toNat < 2 ^ s.acc.len.toNat →
        ((s.code.map CodeEntry.word).Nodup → ∀ e ∈ s.code,
            e.word.len.toNat = s.acc.len.toNat + 1 → e.word.val.toNat = 2 * s.acc.val.toNat + b →
          exec (.decode chr) s = .next
            { s with res0 := BitVec.ofNat 32 e.sym.toNat, res1 := 0#32, res2 := 0#32,
                     acc := { len := 0#7, val := 0#64 }, symv := true, pending := none }) ∧
        ((∀ e ∈ s.code,
            ¬ (e.word.len.toNat = s.acc.len.toNat + 1 ∧ e.word.val.toNat = 2 * s.acc.val.toNat + b)) →
          exec (.decode chr) s = .next
            { s with acc := { len := BitVec.ofNat 7 (s.acc.len.toNat + 1),
                              val := BitVec.ofNat 64 (2 * s.acc.val.toNat + b) },
                     symv := false, pending := none }))

/-- R151: DECEND's result and its errors. -/
def Obligations.DecendChecksTheAccumulator : Prop :=
  (encode .decend).toNat = 0x51000000 ∧
  ∀ (s : State) (w : Word), s.pending = some w → s.err = .noError →
    (s.phase ≠ .table → exec .decend s = .next (s.latches .phase w)) ∧
    (s.phase = .table → s.acc.len ≠ 0#7 → exec .decend s = .next (s.latches .truncatedPayload w)) ∧
    (s.phase = .table → s.acc.len = 0#7 → exec .decend s = .next { s with symv := false, pending := none })

/-- R152: with a generated table, decoding the concatenated codewords of a text gives the text back, by the driver
model (log 19). -/
def Obligations.DecodingTheEncodedTextGivesTheText : Prop :=
  ∀ (s t : State) (text : List Symbol) (payload : List Byte), s.Inv → s.phase = .table → s.freq ≠ [] →
    s.err = .noError → s.pending = none → s.acc = .empty → encodeAll text s = .ok (payload, t) →
    ∃ u, decodePayload payload t = .ok (text, u)

/-! ## Loading and reading tables (spec/46_table_load.md, spec/47_readback.md) -/

/-- R160: LDBEGIN in every phase; with IMM not 0 its word raises RESERVED_FIELD. -/
def Obligations.LdbeginStartsAnEmptyLoad : Prop :=
  (encode .ldbegin).toNat = 0x60000000 ∧
  (∀ s : State, s.err = .noError → exec .ldbegin s = .next
    { s with phase := .load, freq := [], total := 0#32, node := [], heap := [], root := none, code := [],
             acc := { len := 0#7, val := 0#64 }, symv := false, pending := none }) ∧
  ∀ (s : State) (w : Word), s.pending = some w → s.err = .noError → w.toNat / 2 ^ 24 = 0x60 →
    w.toNat % 2 ^ 24 ≠ 0 → complete w s = .next (s.latches .reservedField w)

/-- R161: LDENT's result and its errors in check order. -/
def Obligations.LdentAddsOneEntry : Prop :=
  (∀ sym : Symbol, (encode (.ldent sym)).toNat = 0x61000000 + sym.toNat) ∧
  ∀ (s : State) (w : Word) (sym : Symbol) (len val : Nat), s.pending = some w → s.err = .noError →
    len = s.arg2.toNat % 2 ^ 7 → val = s.arg1.toNat * 2 ^ 32 + s.arg0.toNat →
    (s.phase ≠ .load → exec (.ldent sym) s = .next (s.latches .phase w)) ∧
    (s.phase = .load → 0x10FFFF < sym.toNat → exec (.ldent sym) s = .next (s.latches .invalidSymbol w)) ∧
    (s.phase = .load → sym.toNat ≤ 0x10FFFF →
      (s.arg2.toNat / 2 ^ 7 ≠ 0 ∨ len = 0 ∨ 64 < len ∨ 2 ^ len ≤ val ∨ (∃ e ∈ s.code, e.sym = sym) ∨
        (∃ e ∈ s.code, e.word.len.toNat = len ∧ e.word.val.toNat = val)) →
      exec (.ldent sym) s = .next (s.latches .badEntry w)) ∧
    (s.phase = .load → sym.toNat ≤ 0x10FFFF → s.arg2.toNat / 2 ^ 7 = 0 → 1 ≤ len → len ≤ 64 → val < 2 ^ len →
      (∀ e ∈ s.code, e.sym ≠ sym) →
      (∀ e ∈ s.code, ¬ (e.word.len.toNat = len ∧ e.word.val.toNat = val)) →
      (s.build.nMax ≤ s.code.length → exec (.ldent sym) s = .next (s.latches .tableFull w)) ∧
      (s.code.length < s.build.nMax → exec (.ldent sym) s = .next
        { s with code := s.code ++
                   [{ sym := sym, word := { len := BitVec.ofNat 7 len, val := BitVec.ofNat 64 val } }],
                 symv := false, pending := none }))

/-- R162: LDEND's result and its error. -/
def Obligations.LdendMakesTheTableValid : Prop :=
  (encode .ldend).toNat = 0x62000000 ∧
  ∀ (s : State) (w : Word), s.pending = some w → s.err = .noError →
    (s.phase ≠ .load → exec .ldend s = .next (s.latches .phase w)) ∧
    (s.phase = .load → exec .ldend s = .next
      { s with acc := { len := 0#7, val := 0#64 }, phase := .table, symv := false, pending := none })

/-- R160-R162, R186: loading entries that R161 accepts leaves exactly them, in load order, in P_TABLE,
by the driver model (log 19). -/
def Obligations.LoadingATableLeavesItsEntries : Prop :=
  ∀ (s : State) (es : List CodeEntry), s.err = .noError → s.pending = none → es.length ≤ s.build.nMax →
    (∀ e ∈ es, isSymbol e.sym = true ∧ e.word.valid = true) → (es.map CodeEntry.sym).Nodup →
    (es.map CodeEntry.word).Nodup →
    ∃ t, loadTable es s = .ok t ∧ t.code = es ∧ t.phase = .table ∧ t.acc = .empty ∧ t.err = .noError ∧
      t.pending = none

/-- R170: RDFREQ in every phase. -/
def Obligations.RdfreqReadsOneEntry : Prop :=
  (∀ idx : Index, (encode (.rdfreq idx)).toNat = 0x70000000 + idx.toNat) ∧
  ∀ (s : State) (w : Word) (idx : Index), s.pending = some w → s.err = .noError →
    (s.freq.length ≤ idx.toNat → exec (.rdfreq idx) s = .next (s.latches .indexRange w)) ∧
    ∀ e, s.freq[idx.toNat]? = some e → exec (.rdfreq idx) s = .next
      { s with res0 := e.count, res1 := BitVec.ofNat 32 e.sym.toNat, res2 := 0#32, symv := false,
               pending := none }

/-- R171: RDNODE in every phase, for a leaf and for an internal node. -/
def Obligations.RdnodeReadsOneNode : Prop :=
  (∀ idx : Index, (encode (.rdnode idx)).toNat = 0x71000000 + idx.toNat) ∧
  ∀ (s : State) (w : Word) (idx : Index), s.pending = some w → s.err = .noError →
    (s.node.length ≤ idx.toNat → exec (.rdnode idx) s = .next (s.latches .indexRange w)) ∧
    (∀ wt sym, s.node[idx.toNat]? = some (.leaf wt sym) → exec (.rdnode idx) s = .next
      { s with res0 := wt, res1 := BitVec.ofNat 32 sym.toNat, res2 := 0x80000000#32, symv := false,
               pending := none }) ∧
    ∀ wt l r, s.node[idx.toNat]? = some (.internal wt l r) → exec (.rdnode idx) s = .next
      { s with res0 := wt, res1 := BitVec.ofNat 32 l.toNat, res2 := BitVec.ofNat 32 r.toNat, symv := false,
               pending := none }

/-- R172: RDCODE in every phase. -/
def Obligations.RdcodeReadsOneEntry : Prop :=
  (∀ idx : Index, (encode (.rdcode idx)).toNat = 0x72000000 + idx.toNat) ∧
  ∀ (s : State) (w : Word) (idx : Index), s.pending = some w → s.err = .noError →
    (s.code.length ≤ idx.toNat → exec (.rdcode idx) s = .next (s.latches .indexRange w)) ∧
    ∀ e, s.code[idx.toNat]? = some e → exec (.rdcode idx) s = .next
      { s with res0 := BitVec.ofNat 32 e.word.val.toNat,
               res1 := BitVec.ofNat 32 (e.word.val.toNat / 2 ^ 32),
               res2 := BitVec.ofNat 32 (e.sym.toNat * 2 ^ 8 + e.word.len.toNat),
               symv := false, pending := none }

/-! ## The window and the handshake (spec/10_state.md, spec/20_memory.md, spec/60_exceptions.md R208,
spec/70_reset_and_hazards.md) -/

/-- R23: the fields of STATUS, with the phase numbers of R30 and the error codes of R201. -/
def Obligations.StatusShowsItsFields : Prop :=
  ∀ s : State, ∃ phase code : Nat,
    s.status.toNat =
      s.busy.toNat + 2 * s.symv.toNat + 4 * s.ovr.toNat + 8 * (if s.err = .noError then 0 else 1) +
        16 * phase + 256 * code ∧
    (s.phase, phase) ∈ [(.count, 0), (.merge, 1), (.tree, 2), (.table, 3), (.load, 4)] ∧
    (s.err, code) ∈
      [(.noError, 0), (.illegalOp, 1), (.reservedField, 2), (.phase, 3), (.invalidSymbol, 4), (.tableFull, 5),
       (.countOverflow, 6), (.unmappableSymbol, 7), (.truncatedPayload, 8), (.badEntry, 9), (.badPayloadChar, 10),
       (.accOverflow, 11), (.indexRange, 12), (.codeTooLong, 13)]

/-- R21-R29: what every register shows: in every state the identity and the stored registers, and in every state of
the invariant the configuration, count, root, total and accumulator registers. -/
def Obligations.ViewRegistersShowTheTables : Prop :=
  (∀ s : State, s.readReg .id = 0x48544201#32 ∧ s.readReg .status = s.status ∧ s.readReg .cmd = s.cmd ∧
    s.readReg .arg0 = s.arg0 ∧ s.readReg .arg1 = s.arg1 ∧ s.readReg .arg2 = s.arg2 ∧
    s.readReg .res0 = s.res0 ∧ s.readReg .res1 = s.res1 ∧ s.readReg .res2 = s.res2 ∧
    s.readReg .errcmd = s.errcmd) ∧
  ∀ s : State, s.Inv →
    (s.readReg .cfg).toNat = s.build.nMax + 64 * 2 ^ 16 ∧
    (s.readReg .nsym).toNat = s.freq.length ∧ s.freq.length ≤ s.build.nMax ∧
    (s.readReg .nnode).toNat = s.node.length ∧ s.node.length ≤ 2 * s.build.nMax - 1 ∧
    (s.readReg .ncode).toNat = s.code.length ∧ s.code.length ≤ s.build.nMax ∧
    (s.readReg .heapn).toNat = s.heap.length ∧ s.heap.length ≤ s.build.nMax ∧
    (s.root = none → s.readReg .root = 0#32) ∧
    (∀ k, s.root = some k → (s.readReg .root).toNat = 2 ^ 31 + k.toNat) ∧
    (s.readReg .total).toNat = (s.freq.map fun e => e.count.toNat).sum ∧
    (s.readReg .acclen).toNat = s.acc.len.toNat ∧
    (s.readReg .acclo).toNat + 2 ^ 32 * (s.readReg .acchi).toNat = s.acc.val.toNat

/-- R51: byte lane `j` carries bits `[8*j+7 : 8*j]`, so the four lanes make up the word. -/
def Obligations.ByteLanesAreLittleEndian : Prop :=
  ∀ v : Word, v.toNat = (byteLane 0 v).toNat + 2 ^ 8 * (byteLane 1 v).toNat + 2 ^ 16 * (byteLane 2 v).toNat +
    2 ^ 24 * (byteLane 3 v).toNat

/-- R57, R53, R64, R235: a host read in the window changes no state of the block; it returns what the host reads of
the register that 10_state.md's map has at the offset, which is the register itself while nothing is pending, and 0 at
a reserved offset. A POLL (R80) reads STATUS so, and is repeated while a command is pending (log 16). The script, the
value seen, the delay and the draw are the model's own fields (log 6). -/
def Obligations.HostReadHasNoSideEffect : Prop :=
  ∀ (s : State) (rest : List HostAction), (s.pending = none ∨ s.delay ≠ 0) →
    (∀ offset, s.todo = .read (s.build.base + offset) 4 :: rest → offset < 256 → offset % 4 = 0 →
      ∃ v, step s = .next
          { s with todo := rest, seen := v :: s.seen, delay := s.delay - 1, draws := s.draws + 1 } ∧
        (offset = 0x1C ∨ offset = 0x2C ∨ 0x58 ≤ offset → v = 0#32) ∧
        ∀ r : Reg, (offset, r) ∈
          [(0x00, .id), (0x04, .cfg), (0x08, .status), (0x0C, .cmd), (0x10, .arg0), (0x14, .arg1), (0x18, .arg2),
           (0x20, .res0), (0x24, .res1), (0x28, .res2), (0x30, .nsym), (0x34, .nnode), (0x38, .ncode),
           (0x3C, .heapn), (0x40, .root), (0x44, .total), (0x48, .acclen), (0x4C, .acclo), (0x50, .acchi),
           (0x54, .errcmd)] →
          v = s.hostReads r ∧ (s.pending = none → v = s.readReg r)) ∧
    (s.todo = .poll :: rest → step s = .next
      { s with todo := if s.pending = none then rest else .poll :: rest, seen := s.hostReads .status :: s.seen,
               delay := s.delay - 1, draws := s.draws + 1 })

/-- R64: while a command is pending, the reads that are defined, and the free draw the others return (log 5). -/
def Obligations.ReadsWhileBusyAreDrawn : Prop :=
  ∀ (s : State) (r : Reg), s.busy = true →
    (r ∈ [.id, .cfg, .cmd, .arg0, .arg1, .arg2] → s.hostReads r = s.readReg r) ∧
    (r = .status → (s.hostReads r).toNat % 2 = 1 ∧
      (s.hostReads r).toNat / 2 = (Config.freeRead s.draws).toNat / 2) ∧
    (r ∉ [.id, .cfg, .cmd, .arg0, .arg1, .arg2, .status] → s.hostReads r = Config.freeRead s.draws)

/-- R53, R54: a host write to a reserved offset or a read-only register changes no state of the block and does not set
OVR, whether or not a command is pending. The script and the delay are the model's own (log 6). -/
def Obligations.ReadOnlyAndReservedWritesAreIgnored : Prop :=
  ∀ (s : State) (offset : Nat) (v : Word) (rest : List HostAction),
    s.todo = .write (s.build.base + offset) 4 v :: rest → offset < 256 → offset % 4 = 0 →
    offset ∉ [0x0C, 0x10, 0x14, 0x18] → (s.pending = none ∨ s.delay ≠ 0) →
    step s = .next { s with todo := rest, delay := s.delay - 1 }

/-- R25, R231: with nothing pending a CMD write issues the word, whatever it is and whatever ERR is, and an ARG write
stores the operand. How long the command then takes is a free draw (log 4). -/
def Obligations.WritesWhileIdleIssueOrStore : Prop :=
  ∀ (s : State) (v : Word) (rest : List HostAction), s.pending = none →
    (s.todo = .write (s.build.base + 0x0C) 4 v :: rest → step s = .next
      { s with todo := rest, cmd := v, pending := some v, delay := Config.freeDelay s.draws,
               draws := s.draws + 1 }) ∧
    (s.todo = .write (s.build.base + 0x10) 4 v :: rest →
      step s = .next { s with todo := rest, arg0 := v, delay := s.delay - 1 }) ∧
    (s.todo = .write (s.build.base + 0x14) 4 v :: rest →
      step s = .next { s with todo := rest, arg1 := v, delay := s.delay - 1 }) ∧
    (s.todo = .write (s.build.base + 0x18) 4 v :: rest →
      step s = .next { s with todo := rest, arg2 := v, delay := s.delay - 1 })

/-- R208: a CMD or ARG write while a command is pending is dropped and sets OVR; OVR rises in no other way, and falls
only by CLEAR and reset. The script and the delay are the model's own (log 4, log 6). -/
def Obligations.CommandOverrunSetsStickyOvr : Prop :=
  (∀ (s : State) (offset : Nat) (v : Word) (rest : List HostAction),
    s.todo = .write (s.build.base + offset) 4 v :: rest → offset ∈ [0x0C, 0x10, 0x14, 0x18] →
    s.busy = true → s.delay ≠ 0 →
    step s = .next { s with todo := rest, ovr := true, delay := s.delay - 1 }) ∧
  ∀ s t : State, step s = .next t →
    (s.ovr = false → t.ovr = true → s.busy = true ∧
      ∃ offset v rest, s.todo = .write (s.build.base + offset) 4 v :: rest ∧
        offset ∈ [0x0C, 0x10, 0x14, 0x18]) ∧
    (s.ovr = true → t.ovr = false → s.pending = some 0x01000000#32 ∨ s.todo.head? = some .reset)

/-- R237: a pending command's operands keep their values until it has completed. -/
def Obligations.OperandsAreStableWhilePending : Prop :=
  ∀ s t : State, s.busy = true → s.todo.head? ≠ some .reset → step s = .next t →
    t.cmd = s.cmd ∧ t.arg0 = s.arg0 ∧ t.arg1 = s.arg1 ∧ t.arg2 = s.arg2 ∧
    (t.pending = s.pending ∨ t.pending = none)

/-- R52: an access that is not a 32-bit access at a multiple of 4 is refused; so is one outside the window, which the
platform answers (log 15). -/
def Obligations.UndefinedAccessesAreRefused : Prop :=
  ∀ (s : State) (addr bytes : Nat) (v : Word) (rest : List HostAction),
    (s.todo = .read addr bytes :: rest ∨ s.todo = .write addr bytes v :: rest) →
    (s.pending = none ∨ s.delay ≠ 0) →
    ((addr < s.build.base ∨ s.build.base + 256 ≤ addr) → step s = .refused (.outsideWindow addr)) ∧
    (s.build.base ≤ addr → addr < s.build.base + 256 → (bytes ≠ 4 ∨ (addr - s.build.base) % 4 ≠ 0) →
      step s = .refused (.undefinedAccess addr bytes))

/-- R230: reset at any time abandons the pending command and leaves the state of R40; the build and what belongs to
the host are kept (log 17). -/
def Obligations.ResetRestoresTheResetState : Prop :=
  ∀ (s : State) (rest : List HostAction), s.todo = .reset :: rest → (s.pending = none ∨ s.delay ≠ 0) →
    ∃ t, step s = .next t ∧
      t = { State.resetOf s.build with todo := rest, seen := s.seen, draws := s.draws } ∧
      t.pending = none ∧ t.phase = .count ∧ t.err = .noError ∧ t.status = 0#32 ∧
      ∀ r : Reg, r ≠ .id → r ≠ .cfg → t.readReg r = 0#32

/-- R233: a pending command is reached after at most `delay` host actions, unchanged, and its completion then gives a
next state. The delay is a free value (log 4). -/
def Obligations.PendingCommandCompletes : Prop :=
  ∀ (s : State) (w : Word), s.TreeInv → s.pending = some w → quietScript s.build (s.todo.take s.delay) = true →
    ∃ n u t, n ≤ s.delay ∧ Host.Core.run core n s = .next u ∧ u.pending = some w ∧
      u.freq = s.freq ∧ u.node = s.node ∧ u.code = s.code ∧ u.acc = s.acc ∧ u.phase = s.phase ∧
      step u = complete w u ∧ step u = .next t ∧ t.pending = none

/-! ## Invariants (spec/10_state.md R30-R39) -/

/-- The state after reset of every legal build meets the invariant (R40). -/
def Obligations.ResetMeetsTheInvariant : Prop :=
  ∀ b : Build, b.WellFormed = true → (State.resetOf b).Inv

/-- R39: what the invariant says of the counts, the root and the accumulator in each phase. -/
def Obligations.PhaseFactsHoldInTheInvariant : Prop :=
  ∀ s : State, s.Inv →
    (s.phase = .count → s.nnode = 0 ∧ s.heapn = 0 ∧ s.root = none ∧ s.ncode = 0 ∧ s.acc = .empty) ∧
    (s.phase = .merge → s.nsym ≤ s.nnode ∧ 2 ≤ s.nsym ∧ 2 ≤ s.heapn ∧ s.heapn = 2 * s.nsym - s.nnode ∧
      s.root = none ∧ s.ncode = 0) ∧
    (s.phase = .tree → s.heapn = min s.nsym 1 ∧ (s.nsym = 0 → s.nnode = 0 ∧ s.root = none) ∧
      (s.nsym ≠ 0 → s.nnode = 2 * s.nsym - 1 ∧
        ∃ k, s.root = some k ∧ s.heap = [k] ∧ k.toNat = s.nnode - 1) ∧ s.ncode = 0) ∧
    (s.phase = .table → s.acc.len.toNat ≤ 64 ∧
      (s.heapn = min s.nsym 1 ∧ (s.nsym = 0 → s.nnode = 0 ∧ s.root = none) ∧
        (s.nsym ≠ 0 → s.nnode = 2 * s.nsym - 1 ∧
          ∃ k, s.root = some k ∧ s.heap = [k] ∧ k.toNat = s.nnode - 1) ∧ s.ncode = s.nsym ∨
       s.nsym = 0 ∧ s.nnode = 0 ∧ s.heapn = 0 ∧ s.root = none)) ∧
    (s.phase = .load → s.nsym = 0 ∧ s.nnode = 0 ∧ s.heapn = 0 ∧ s.root = none ∧ s.acc = .empty)

/-- R31: every step keeps the frequency table's invariant. -/
def Obligations.StepKeepsTheFrequencyTable : Prop :=
  ∀ s t : State, s.FreqOk → step s = .next t → t.FreqOk

/-- R34, R37, R38: every step keeps the invariants of the latch and of the accumulator. -/
def Obligations.StepKeepsTheLatchAndTheAccumulator : Prop :=
  ∀ s t : State, s.LatchOk → s.AccOk → step s = .next t → t.LatchOk ∧ t.AccOk

/-- R32, R35, R36, R39: every step keeps the invariant of the arena, the heap and the root. -/
def Obligations.StepKeepsTheTree : Prop :=
  ∀ s t : State, s.TreeInv → step s = .next t → t.TreeInv

/-- R33, R131: every step keeps the whole invariant, the code table's included. -/
def Obligations.StepKeepsTheInvariant : Prop :=
  ∀ s t : State, s.Inv → step s = .next t → t.Inv

/-- R233: in a state of the invariant no step is stuck. -/
def Obligations.NoStepIsStuck : Prop :=
  ∀ (s : State) (f : Fault), s.TreeInv → step s ≠ .fault f

/-! ## The container (spec/49_host_container.md) -/

/-- R181, R184: the reader gives back the table and the payload the writer was given (log 19). -/
def Obligations.ContainerReaderInvertsTheWriter : Prop :=
  ∀ (es : List CodeEntry) (payload out : List Byte),
    (∀ e ∈ es, isSymbol e.sym = true ∧ isSurrogate e.sym = false ∧ e.word.valid = true) →
    (∀ b ∈ payload, b = 0x30#8 ∨ b = 0x31#8) → writeContainer es payload = .ok out →
    readContainer out = .ok (es, payload)

/-- R188: what the decode sequence makes of the container the encode sequence wrote (log 19). -/
def Obligations.ContainerRoundTripGivesTheText : Prop :=
  ∀ (s s' t : State) (text : List Symbol) (out : List Byte), s.build.WellFormed = true → s'.build = s.build →
    s.pending = none → s'.pending = none → s'.err = .noError → (∀ c ∈ text, isSurrogate c = false) →
    encodeSequence text s = .ok (out, t) → ∃ u, decodeSequence out s' = .ok (text, u)
end

