-- ==== Sys2Proof/Laws/State.lean ====
section
/-! SUPPORT. What each named update of the state leaves in each field, so that no proof unfolds a record. -/

namespace Sys2Proof.Machine

section
variable (s : State)

@[simp] theorem finish_build (b : Bool) : (finish b s).build = s.build := rfl
@[simp] theorem finish_cmd (b : Bool) : (finish b s).cmd = s.cmd := rfl
@[simp] theorem finish_arg0 (b : Bool) : (finish b s).arg0 = s.arg0 := rfl
@[simp] theorem finish_arg1 (b : Bool) : (finish b s).arg1 = s.arg1 := rfl
@[simp] theorem finish_arg2 (b : Bool) : (finish b s).arg2 = s.arg2 := rfl
@[simp] theorem finish_res0 (b : Bool) : (finish b s).res0 = s.res0 := rfl
@[simp] theorem finish_res1 (b : Bool) : (finish b s).res1 = s.res1 := rfl
@[simp] theorem finish_res2 (b : Bool) : (finish b s).res2 = s.res2 := rfl
@[simp] theorem finish_phase (b : Bool) : (finish b s).phase = s.phase := rfl
@[simp] theorem finish_freq (b : Bool) : (finish b s).freq = s.freq := rfl
@[simp] theorem finish_total (b : Bool) : (finish b s).total = s.total := rfl
@[simp] theorem finish_node (b : Bool) : (finish b s).node = s.node := rfl
@[simp] theorem finish_heap (b : Bool) : (finish b s).heap = s.heap := rfl
@[simp] theorem finish_root (b : Bool) : (finish b s).root = s.root := rfl
@[simp] theorem finish_code (b : Bool) : (finish b s).code = s.code := rfl
@[simp] theorem finish_acc (b : Bool) : (finish b s).acc = s.acc := rfl
@[simp] theorem finish_err (b : Bool) : (finish b s).err = s.err := rfl
@[simp] theorem finish_errcmd (b : Bool) : (finish b s).errcmd = s.errcmd := rfl
@[simp] theorem finish_ovr (b : Bool) : (finish b s).ovr = s.ovr := rfl
@[simp] theorem finish_symv (b : Bool) : (finish b s).symv = b := rfl
@[simp] theorem finish_pending (b : Bool) : (finish b s).pending = none := rfl
@[simp] theorem finish_todo (b : Bool) : (finish b s).todo = s.todo := rfl
@[simp] theorem finish_seen (b : Bool) : (finish b s).seen = s.seen := rfl
@[simp] theorem finish_delay (b : Bool) : (finish b s).delay = s.delay := rfl
@[simp] theorem finish_draws (b : Bool) : (finish b s).draws = s.draws := rfl

@[simp] theorem raiseError_build (e : Err) : (raiseError e s).build = s.build := rfl
@[simp] theorem raiseError_cmd (e : Err) : (raiseError e s).cmd = s.cmd := rfl
@[simp] theorem raiseError_arg0 (e : Err) : (raiseError e s).arg0 = s.arg0 := rfl
@[simp] theorem raiseError_arg1 (e : Err) : (raiseError e s).arg1 = s.arg1 := rfl
@[simp] theorem raiseError_arg2 (e : Err) : (raiseError e s).arg2 = s.arg2 := rfl
@[simp] theorem raiseError_res0 (e : Err) : (raiseError e s).res0 = s.res0 := rfl
@[simp] theorem raiseError_res1 (e : Err) : (raiseError e s).res1 = s.res1 := rfl
@[simp] theorem raiseError_res2 (e : Err) : (raiseError e s).res2 = s.res2 := rfl
@[simp] theorem raiseError_phase (e : Err) : (raiseError e s).phase = s.phase := rfl
@[simp] theorem raiseError_freq (e : Err) : (raiseError e s).freq = s.freq := rfl
@[simp] theorem raiseError_total (e : Err) : (raiseError e s).total = s.total := rfl
@[simp] theorem raiseError_node (e : Err) : (raiseError e s).node = s.node := rfl
@[simp] theorem raiseError_heap (e : Err) : (raiseError e s).heap = s.heap := rfl
@[simp] theorem raiseError_root (e : Err) : (raiseError e s).root = s.root := rfl
@[simp] theorem raiseError_code (e : Err) : (raiseError e s).code = s.code := rfl
@[simp] theorem raiseError_acc (e : Err) : (raiseError e s).acc = s.acc := rfl
@[simp] theorem raiseError_err (e : Err) : (raiseError e s).err = e := rfl
@[simp] theorem raiseError_errcmd (e : Err) : (raiseError e s).errcmd = s.commandWord := rfl
@[simp] theorem raiseError_ovr (e : Err) : (raiseError e s).ovr = s.ovr := rfl
@[simp] theorem raiseError_symv (e : Err) : (raiseError e s).symv = false := rfl
@[simp] theorem raiseError_pending (e : Err) : (raiseError e s).pending = none := rfl
@[simp] theorem raiseError_todo (e : Err) : (raiseError e s).todo = s.todo := rfl
@[simp] theorem raiseError_seen (e : Err) : (raiseError e s).seen = s.seen := rfl
@[simp] theorem raiseError_delay (e : Err) : (raiseError e s).delay = s.delay := rfl
@[simp] theorem raiseError_draws (e : Err) : (raiseError e s).draws = s.draws := rfl

@[simp] theorem emptyTables_build : (emptyTables s).build = s.build := rfl
@[simp] theorem emptyTables_cmd : (emptyTables s).cmd = s.cmd := rfl
@[simp] theorem emptyTables_arg0 : (emptyTables s).arg0 = s.arg0 := rfl
@[simp] theorem emptyTables_arg1 : (emptyTables s).arg1 = s.arg1 := rfl
@[simp] theorem emptyTables_arg2 : (emptyTables s).arg2 = s.arg2 := rfl
@[simp] theorem emptyTables_res0 : (emptyTables s).res0 = s.res0 := rfl
@[simp] theorem emptyTables_res1 : (emptyTables s).res1 = s.res1 := rfl
@[simp] theorem emptyTables_res2 : (emptyTables s).res2 = s.res2 := rfl
@[simp] theorem emptyTables_phase : (emptyTables s).phase = s.phase := rfl
@[simp] theorem emptyTables_freq : (emptyTables s).freq = [] := rfl
@[simp] theorem emptyTables_total : (emptyTables s).total = 0#32 := rfl
@[simp] theorem emptyTables_node : (emptyTables s).node = [] := rfl
@[simp] theorem emptyTables_heap : (emptyTables s).heap = [] := rfl
@[simp] theorem emptyTables_root : (emptyTables s).root = none := rfl
@[simp] theorem emptyTables_code : (emptyTables s).code = [] := rfl
@[simp] theorem emptyTables_acc : (emptyTables s).acc = .empty := rfl
@[simp] theorem emptyTables_err : (emptyTables s).err = s.err := rfl
@[simp] theorem emptyTables_errcmd : (emptyTables s).errcmd = s.errcmd := rfl
@[simp] theorem emptyTables_ovr : (emptyTables s).ovr = s.ovr := rfl
@[simp] theorem emptyTables_symv : (emptyTables s).symv = s.symv := rfl
@[simp] theorem emptyTables_pending : (emptyTables s).pending = s.pending := rfl
@[simp] theorem emptyTables_todo : (emptyTables s).todo = s.todo := rfl
@[simp] theorem emptyTables_seen : (emptyTables s).seen = s.seen := rfl
@[simp] theorem emptyTables_delay : (emptyTables s).delay = s.delay := rfl
@[simp] theorem emptyTables_draws : (emptyTables s).draws = s.draws := rfl

@[simp] theorem clearBlock_build : (clearBlock s).build = s.build := rfl
@[simp] theorem clearBlock_cmd : (clearBlock s).cmd = s.cmd := rfl
@[simp] theorem clearBlock_arg0 : (clearBlock s).arg0 = s.arg0 := rfl
@[simp] theorem clearBlock_arg1 : (clearBlock s).arg1 = s.arg1 := rfl
@[simp] theorem clearBlock_arg2 : (clearBlock s).arg2 = s.arg2 := rfl
@[simp] theorem clearBlock_res0 : (clearBlock s).res0 = 0#32 := rfl
@[simp] theorem clearBlock_res1 : (clearBlock s).res1 = 0#32 := rfl
@[simp] theorem clearBlock_res2 : (clearBlock s).res2 = 0#32 := rfl
@[simp] theorem clearBlock_phase : (clearBlock s).phase = .count := rfl
@[simp] theorem clearBlock_freq : (clearBlock s).freq = [] := rfl
@[simp] theorem clearBlock_total : (clearBlock s).total = 0#32 := rfl
@[simp] theorem clearBlock_node : (clearBlock s).node = [] := rfl
@[simp] theorem clearBlock_heap : (clearBlock s).heap = [] := rfl
@[simp] theorem clearBlock_root : (clearBlock s).root = none := rfl
@[simp] theorem clearBlock_code : (clearBlock s).code = [] := rfl
@[simp] theorem clearBlock_acc : (clearBlock s).acc = .empty := rfl
@[simp] theorem clearBlock_err : (clearBlock s).err = .noError := rfl
@[simp] theorem clearBlock_errcmd : (clearBlock s).errcmd = 0#32 := rfl
@[simp] theorem clearBlock_ovr : (clearBlock s).ovr = false := rfl
@[simp] theorem clearBlock_symv : (clearBlock s).symv = s.symv := rfl
@[simp] theorem clearBlock_pending : (clearBlock s).pending = s.pending := rfl
@[simp] theorem clearBlock_todo : (clearBlock s).todo = s.todo := rfl
@[simp] theorem clearBlock_seen : (clearBlock s).seen = s.seen := rfl
@[simp] theorem clearBlock_delay : (clearBlock s).delay = s.delay := rfl
@[simp] theorem clearBlock_draws : (clearBlock s).draws = s.draws := rfl

@[simp] theorem setResults_build (a b c : Word) : (setResults a b c s).build = s.build := rfl
@[simp] theorem setResults_cmd (a b c : Word) : (setResults a b c s).cmd = s.cmd := rfl
@[simp] theorem setResults_arg0 (a b c : Word) : (setResults a b c s).arg0 = s.arg0 := rfl
@[simp] theorem setResults_arg1 (a b c : Word) : (setResults a b c s).arg1 = s.arg1 := rfl
@[simp] theorem setResults_arg2 (a b c : Word) : (setResults a b c s).arg2 = s.arg2 := rfl
@[simp] theorem setResults_res0 (a b c : Word) : (setResults a b c s).res0 = a := rfl
@[simp] theorem setResults_res1 (a b c : Word) : (setResults a b c s).res1 = b := rfl
@[simp] theorem setResults_res2 (a b c : Word) : (setResults a b c s).res2 = c := rfl
@[simp] theorem setResults_phase (a b c : Word) : (setResults a b c s).phase = s.phase := rfl
@[simp] theorem setResults_freq (a b c : Word) : (setResults a b c s).freq = s.freq := rfl
@[simp] theorem setResults_total (a b c : Word) : (setResults a b c s).total = s.total := rfl
@[simp] theorem setResults_node (a b c : Word) : (setResults a b c s).node = s.node := rfl
@[simp] theorem setResults_heap (a b c : Word) : (setResults a b c s).heap = s.heap := rfl
@[simp] theorem setResults_root (a b c : Word) : (setResults a b c s).root = s.root := rfl
@[simp] theorem setResults_code (a b c : Word) : (setResults a b c s).code = s.code := rfl
@[simp] theorem setResults_acc (a b c : Word) : (setResults a b c s).acc = s.acc := rfl
@[simp] theorem setResults_err (a b c : Word) : (setResults a b c s).err = s.err := rfl
@[simp] theorem setResults_errcmd (a b c : Word) : (setResults a b c s).errcmd = s.errcmd := rfl
@[simp] theorem setResults_ovr (a b c : Word) : (setResults a b c s).ovr = s.ovr := rfl
@[simp] theorem setResults_symv (a b c : Word) : (setResults a b c s).symv = s.symv := rfl
@[simp] theorem setResults_pending (a b c : Word) : (setResults a b c s).pending = s.pending := rfl
@[simp] theorem setResults_todo (a b c : Word) : (setResults a b c s).todo = s.todo := rfl
@[simp] theorem setResults_seen (a b c : Word) : (setResults a b c s).seen = s.seen := rfl
@[simp] theorem setResults_delay (a b c : Word) : (setResults a b c s).delay = s.delay := rfl
@[simp] theorem setResults_draws (a b c : Word) : (setResults a b c s).draws = s.draws := rfl

@[simp] theorem issueCommand_build (w : Word) : (issueCommand w s).build = s.build := rfl
@[simp] theorem issueCommand_cmd (w : Word) : (issueCommand w s).cmd = w := rfl
@[simp] theorem issueCommand_arg0 (w : Word) : (issueCommand w s).arg0 = s.arg0 := rfl
@[simp] theorem issueCommand_arg1 (w : Word) : (issueCommand w s).arg1 = s.arg1 := rfl
@[simp] theorem issueCommand_arg2 (w : Word) : (issueCommand w s).arg2 = s.arg2 := rfl
@[simp] theorem issueCommand_res0 (w : Word) : (issueCommand w s).res0 = s.res0 := rfl
@[simp] theorem issueCommand_res1 (w : Word) : (issueCommand w s).res1 = s.res1 := rfl
@[simp] theorem issueCommand_res2 (w : Word) : (issueCommand w s).res2 = s.res2 := rfl
@[simp] theorem issueCommand_phase (w : Word) : (issueCommand w s).phase = s.phase := rfl
@[simp] theorem issueCommand_freq (w : Word) : (issueCommand w s).freq = s.freq := rfl
@[simp] theorem issueCommand_total (w : Word) : (issueCommand w s).total = s.total := rfl
@[simp] theorem issueCommand_node (w : Word) : (issueCommand w s).node = s.node := rfl
@[simp] theorem issueCommand_heap (w : Word) : (issueCommand w s).heap = s.heap := rfl
@[simp] theorem issueCommand_root (w : Word) : (issueCommand w s).root = s.root := rfl
@[simp] theorem issueCommand_code (w : Word) : (issueCommand w s).code = s.code := rfl
@[simp] theorem issueCommand_acc (w : Word) : (issueCommand w s).acc = s.acc := rfl
@[simp] theorem issueCommand_err (w : Word) : (issueCommand w s).err = s.err := rfl
@[simp] theorem issueCommand_errcmd (w : Word) : (issueCommand w s).errcmd = s.errcmd := rfl
@[simp] theorem issueCommand_ovr (w : Word) : (issueCommand w s).ovr = s.ovr := rfl
@[simp] theorem issueCommand_symv (w : Word) : (issueCommand w s).symv = s.symv := rfl
@[simp] theorem issueCommand_pending (w : Word) : (issueCommand w s).pending = some w := rfl
@[simp] theorem issueCommand_todo (w : Word) : (issueCommand w s).todo = s.todo := rfl
@[simp] theorem issueCommand_seen (w : Word) : (issueCommand w s).seen = s.seen := rfl
@[simp] theorem issueCommand_delay (w : Word) : (issueCommand w s).delay = Config.freeDelay s.draws := rfl
@[simp] theorem issueCommand_draws (w : Word) : (issueCommand w s).draws = s.draws + 1 := rfl

@[simp] theorem overrun_build : (overrun s).build = s.build := rfl
@[simp] theorem overrun_cmd : (overrun s).cmd = s.cmd := rfl
@[simp] theorem overrun_arg0 : (overrun s).arg0 = s.arg0 := rfl
@[simp] theorem overrun_arg1 : (overrun s).arg1 = s.arg1 := rfl
@[simp] theorem overrun_arg2 : (overrun s).arg2 = s.arg2 := rfl
@[simp] theorem overrun_res0 : (overrun s).res0 = s.res0 := rfl
@[simp] theorem overrun_res1 : (overrun s).res1 = s.res1 := rfl
@[simp] theorem overrun_res2 : (overrun s).res2 = s.res2 := rfl
@[simp] theorem overrun_phase : (overrun s).phase = s.phase := rfl
@[simp] theorem overrun_freq : (overrun s).freq = s.freq := rfl
@[simp] theorem overrun_total : (overrun s).total = s.total := rfl
@[simp] theorem overrun_node : (overrun s).node = s.node := rfl
@[simp] theorem overrun_heap : (overrun s).heap = s.heap := rfl
@[simp] theorem overrun_root : (overrun s).root = s.root := rfl
@[simp] theorem overrun_code : (overrun s).code = s.code := rfl
@[simp] theorem overrun_acc : (overrun s).acc = s.acc := rfl
@[simp] theorem overrun_err : (overrun s).err = s.err := rfl
@[simp] theorem overrun_errcmd : (overrun s).errcmd = s.errcmd := rfl
@[simp] theorem overrun_ovr : (overrun s).ovr = true := rfl
@[simp] theorem overrun_symv : (overrun s).symv = s.symv := rfl
@[simp] theorem overrun_pending : (overrun s).pending = s.pending := rfl
@[simp] theorem overrun_todo : (overrun s).todo = s.todo := rfl
@[simp] theorem overrun_seen : (overrun s).seen = s.seen := rfl
@[simp] theorem overrun_delay : (overrun s).delay = s.delay := rfl
@[simp] theorem overrun_draws : (overrun s).draws = s.draws := rfl

@[simp] theorem advance_build (rest : List HostAction) : (s.advance rest).build = s.build := rfl
@[simp] theorem advance_cmd (rest : List HostAction) : (s.advance rest).cmd = s.cmd := rfl
@[simp] theorem advance_arg0 (rest : List HostAction) : (s.advance rest).arg0 = s.arg0 := rfl
@[simp] theorem advance_arg1 (rest : List HostAction) : (s.advance rest).arg1 = s.arg1 := rfl
@[simp] theorem advance_arg2 (rest : List HostAction) : (s.advance rest).arg2 = s.arg2 := rfl
@[simp] theorem advance_res0 (rest : List HostAction) : (s.advance rest).res0 = s.res0 := rfl
@[simp] theorem advance_res1 (rest : List HostAction) : (s.advance rest).res1 = s.res1 := rfl
@[simp] theorem advance_res2 (rest : List HostAction) : (s.advance rest).res2 = s.res2 := rfl
@[simp] theorem advance_phase (rest : List HostAction) : (s.advance rest).phase = s.phase := rfl
@[simp] theorem advance_freq (rest : List HostAction) : (s.advance rest).freq = s.freq := rfl
@[simp] theorem advance_total (rest : List HostAction) : (s.advance rest).total = s.total := rfl
@[simp] theorem advance_node (rest : List HostAction) : (s.advance rest).node = s.node := rfl
@[simp] theorem advance_heap (rest : List HostAction) : (s.advance rest).heap = s.heap := rfl
@[simp] theorem advance_root (rest : List HostAction) : (s.advance rest).root = s.root := rfl
@[simp] theorem advance_code (rest : List HostAction) : (s.advance rest).code = s.code := rfl
@[simp] theorem advance_acc (rest : List HostAction) : (s.advance rest).acc = s.acc := rfl
@[simp] theorem advance_err (rest : List HostAction) : (s.advance rest).err = s.err := rfl
@[simp] theorem advance_errcmd (rest : List HostAction) : (s.advance rest).errcmd = s.errcmd := rfl
@[simp] theorem advance_ovr (rest : List HostAction) : (s.advance rest).ovr = s.ovr := rfl
@[simp] theorem advance_symv (rest : List HostAction) : (s.advance rest).symv = s.symv := rfl
@[simp] theorem advance_pending (rest : List HostAction) : (s.advance rest).pending = s.pending := rfl
@[simp] theorem advance_todo (rest : List HostAction) : (s.advance rest).todo = rest := rfl
@[simp] theorem advance_seen (rest : List HostAction) : (s.advance rest).seen = s.seen := rfl
@[simp] theorem advance_delay (rest : List HostAction) : (s.advance rest).delay = s.delay - 1 := rfl
@[simp] theorem advance_draws (rest : List HostAction) : (s.advance rest).draws = s.draws := rfl

@[simp] theorem hostRead_build (o : Nat) : (hostRead o s).build = s.build := rfl
@[simp] theorem hostRead_cmd (o : Nat) : (hostRead o s).cmd = s.cmd := rfl
@[simp] theorem hostRead_arg0 (o : Nat) : (hostRead o s).arg0 = s.arg0 := rfl
@[simp] theorem hostRead_arg1 (o : Nat) : (hostRead o s).arg1 = s.arg1 := rfl
@[simp] theorem hostRead_arg2 (o : Nat) : (hostRead o s).arg2 = s.arg2 := rfl
@[simp] theorem hostRead_res0 (o : Nat) : (hostRead o s).res0 = s.res0 := rfl
@[simp] theorem hostRead_res1 (o : Nat) : (hostRead o s).res1 = s.res1 := rfl
@[simp] theorem hostRead_res2 (o : Nat) : (hostRead o s).res2 = s.res2 := rfl
@[simp] theorem hostRead_phase (o : Nat) : (hostRead o s).phase = s.phase := rfl
@[simp] theorem hostRead_freq (o : Nat) : (hostRead o s).freq = s.freq := rfl
@[simp] theorem hostRead_total (o : Nat) : (hostRead o s).total = s.total := rfl
@[simp] theorem hostRead_node (o : Nat) : (hostRead o s).node = s.node := rfl
@[simp] theorem hostRead_heap (o : Nat) : (hostRead o s).heap = s.heap := rfl
@[simp] theorem hostRead_root (o : Nat) : (hostRead o s).root = s.root := rfl
@[simp] theorem hostRead_code (o : Nat) : (hostRead o s).code = s.code := rfl
@[simp] theorem hostRead_acc (o : Nat) : (hostRead o s).acc = s.acc := rfl
@[simp] theorem hostRead_err (o : Nat) : (hostRead o s).err = s.err := rfl
@[simp] theorem hostRead_errcmd (o : Nat) : (hostRead o s).errcmd = s.errcmd := rfl
@[simp] theorem hostRead_ovr (o : Nat) : (hostRead o s).ovr = s.ovr := rfl
@[simp] theorem hostRead_symv (o : Nat) : (hostRead o s).symv = s.symv := rfl
@[simp] theorem hostRead_pending (o : Nat) : (hostRead o s).pending = s.pending := rfl
@[simp] theorem hostRead_todo (o : Nat) : (hostRead o s).todo = s.todo := rfl
@[simp] theorem hostRead_seen (o : Nat) : (hostRead o s).seen = s.readsAt o :: s.seen := rfl
@[simp] theorem hostRead_delay (o : Nat) : (hostRead o s).delay = s.delay := rfl
@[simp] theorem hostRead_draws (o : Nat) : (hostRead o s).draws = s.draws + 1 := rfl

@[simp] theorem presentCommand_build (w : Word) : (presentCommand w s).build = s.build := rfl
@[simp] theorem presentCommand_cmd (w : Word) : (presentCommand w s).cmd = w := rfl
@[simp] theorem presentCommand_arg0 (w : Word) : (presentCommand w s).arg0 = s.arg0 := rfl
@[simp] theorem presentCommand_arg1 (w : Word) : (presentCommand w s).arg1 = s.arg1 := rfl
@[simp] theorem presentCommand_arg2 (w : Word) : (presentCommand w s).arg2 = s.arg2 := rfl
@[simp] theorem presentCommand_res0 (w : Word) : (presentCommand w s).res0 = s.res0 := rfl
@[simp] theorem presentCommand_res1 (w : Word) : (presentCommand w s).res1 = s.res1 := rfl
@[simp] theorem presentCommand_res2 (w : Word) : (presentCommand w s).res2 = s.res2 := rfl
@[simp] theorem presentCommand_phase (w : Word) : (presentCommand w s).phase = s.phase := rfl
@[simp] theorem presentCommand_freq (w : Word) : (presentCommand w s).freq = s.freq := rfl
@[simp] theorem presentCommand_total (w : Word) : (presentCommand w s).total = s.total := rfl
@[simp] theorem presentCommand_node (w : Word) : (presentCommand w s).node = s.node := rfl
@[simp] theorem presentCommand_heap (w : Word) : (presentCommand w s).heap = s.heap := rfl
@[simp] theorem presentCommand_root (w : Word) : (presentCommand w s).root = s.root := rfl
@[simp] theorem presentCommand_code (w : Word) : (presentCommand w s).code = s.code := rfl
@[simp] theorem presentCommand_acc (w : Word) : (presentCommand w s).acc = s.acc := rfl
@[simp] theorem presentCommand_err (w : Word) : (presentCommand w s).err = s.err := rfl
@[simp] theorem presentCommand_errcmd (w : Word) : (presentCommand w s).errcmd = s.errcmd := rfl
@[simp] theorem presentCommand_ovr (w : Word) : (presentCommand w s).ovr = s.ovr := rfl
@[simp] theorem presentCommand_symv (w : Word) : (presentCommand w s).symv = s.symv := rfl
@[simp] theorem presentCommand_pending (w : Word) : (presentCommand w s).pending = some w := rfl
@[simp] theorem presentCommand_todo (w : Word) : (presentCommand w s).todo = s.todo := rfl
@[simp] theorem presentCommand_seen (w : Word) : (presentCommand w s).seen = s.seen := rfl
@[simp] theorem presentCommand_delay (w : Word) : (presentCommand w s).delay = 0 := rfl
@[simp] theorem presentCommand_draws (w : Word) : (presentCommand w s).draws = s.draws := rfl

@[simp] theorem resetBlock_build : (resetBlock s).build = s.build := rfl
@[simp] theorem resetBlock_cmd : (resetBlock s).cmd = 0#32 := rfl
@[simp] theorem resetBlock_arg0 : (resetBlock s).arg0 = 0#32 := rfl
@[simp] theorem resetBlock_arg1 : (resetBlock s).arg1 = 0#32 := rfl
@[simp] theorem resetBlock_arg2 : (resetBlock s).arg2 = 0#32 := rfl
@[simp] theorem resetBlock_res0 : (resetBlock s).res0 = 0#32 := rfl
@[simp] theorem resetBlock_res1 : (resetBlock s).res1 = 0#32 := rfl
@[simp] theorem resetBlock_res2 : (resetBlock s).res2 = 0#32 := rfl
@[simp] theorem resetBlock_phase : (resetBlock s).phase = .count := rfl
@[simp] theorem resetBlock_freq : (resetBlock s).freq = [] := rfl
@[simp] theorem resetBlock_total : (resetBlock s).total = 0#32 := rfl
@[simp] theorem resetBlock_node : (resetBlock s).node = [] := rfl
@[simp] theorem resetBlock_heap : (resetBlock s).heap = [] := rfl
@[simp] theorem resetBlock_root : (resetBlock s).root = none := rfl
@[simp] theorem resetBlock_code : (resetBlock s).code = [] := rfl
@[simp] theorem resetBlock_acc : (resetBlock s).acc = .empty := rfl
@[simp] theorem resetBlock_err : (resetBlock s).err = .noError := rfl
@[simp] theorem resetBlock_errcmd : (resetBlock s).errcmd = 0#32 := rfl
@[simp] theorem resetBlock_ovr : (resetBlock s).ovr = false := rfl
@[simp] theorem resetBlock_symv : (resetBlock s).symv = false := rfl
@[simp] theorem resetBlock_pending : (resetBlock s).pending = none := rfl
@[simp] theorem resetBlock_todo : (resetBlock s).todo = s.todo := rfl
@[simp] theorem resetBlock_seen : (resetBlock s).seen = s.seen := rfl
@[simp] theorem resetBlock_delay : (resetBlock s).delay = 0 := rfl
@[simp] theorem resetBlock_draws : (resetBlock s).draws = s.draws := rfl

/-- A dropped command is a completion that emits nothing. -/
@[simp] theorem dropCommand_eq : dropCommand s = finish false s := rfl

end

end Sys2Proof.Machine
end

