-- ==== Sys2Proof/Laws/Ops.lean ====
section
/-! SUPPORT. One lemma for each shared operation: everything it can do. Later proofs cite these instead of unfolding
the operations. -/

namespace Sys2Proof.Machine

/-! ## The common completion (R90) -/

/-- Everything `completeBody` can answer with a next state. -/
theorem completeBody_next {s t : State} {b : Body} (h : completeBody s b = .next t) :
    (∃ u, b = .done u ∧ t = finish false u) ∨ (∃ u, b = .emitted u ∧ t = finish true u) ∨
      ∃ e, b = .raises e ∧ t = raiseError e s := by
  cases b with
  | done u => exact .inl ⟨u, rfl, by simpa [completeBody] using h.symm⟩
  | emitted u => exact .inr (.inl ⟨u, rfl, by simpa [completeBody] using h.symm⟩)
  | raises e => exact .inr (.inr ⟨e, rfl, by simpa [completeBody] using h.symm⟩)
  | stuck f => simp [completeBody] at h

/-- A command whose body runs is completed by its body. -/
theorem command_ready {i : Instr} {body : State → Body} {s : State} (h : s.err = .noError)
    (ha : accepts s.phase i = true) : command i body s = completeBody s (body s) := by
  simp [command, State.errf, h, ha]

/-- A command that does not run while an error is latched is dropped then (R205). -/
theorem command_latched {i : Instr} {body : State → Body} {s : State} (h : s.err ≠ .noError)
    (hr : runsLatched i = false) : command i body s = .next (finish false s) := by
  simp [command, State.errf, h, hr]

/-- A command its phase does not accept raises PHASE (R30). -/
theorem command_outOfPhase {i : Instr} {body : State → Body} {s : State} (h : s.err = .noError)
    (ha : accepts s.phase i = false) : command i body s = .next (raiseError .phase s) := by
  simp [command, State.errf, h, ha]

/-- Everything `command` can answer with a next state (R90). -/
theorem command_next {i : Instr} {body : State → Body} {s t : State} (h : command i body s = .next t) :
    (s.err ≠ .noError ∧ runsLatched i = false ∧ t = finish false s) ∨
    (accepts s.phase i = false ∧ t = raiseError .phase s) ∨
    (accepts s.phase i = true ∧ completeBody s (body s) = .next t) := by
  unfold command at h
  split at h
  next hl =>
    simp only [State.errf, Bool.and_eq_true, bne_iff_ne, Bool.not_eq_true'] at hl
    exact .inl ⟨hl.1, hl.2, by simpa using h.symm⟩
  next =>
    split at h
    next ha => exact .inr (.inl ⟨by simpa using ha, by simpa using h.symm⟩)
    next ha => exact .inr (.inr ⟨by simpa using ha, h⟩)

/-- A command is never refused. -/
theorem command_not_refused {i : Instr} {body : State → Body} {s : State} {r : Refusal} :
    command i body s ≠ .refused r := by
  unfold command completeBody
  split
  · simp
  · split
    · simp
    · split <;> simp

/-- Everything `rejectWord` does: it drops the word or raises its error. -/
theorem rejectWord_cases (e : Err) (s : State) :
    (s.err ≠ .noError ∧ rejectWord e s = .next (finish false s)) ∨
      (s.err = .noError ∧ rejectWord e s = .next (raiseError e s)) := by
  by_cases h : s.err = .noError <;> simp [rejectWord, State.errf, h]

/-- Everything a completion can be, by what its word decodes to (R90). -/
theorem complete_cases (w : Word) (s : State) :
    (∃ i, decode w = .cmd i ∧ complete w s = exec i s) ∨
    (decode w = .illegal ∧ complete w s = rejectWord .illegalOp s) ∨
    (decode w = .reserved ∧ complete w s = rejectWord .reservedField s) := by
  unfold complete
  cases h : decode w <;> simp

/-- A command is never refused. -/
theorem exec_not_refused (i : Instr) (s : State) (r : Refusal) : exec i s ≠ .refused r := by
  cases i <;> exact command_not_refused

/-! ## The heap (R35, R111) -/

/-- The least member of a heap is a member of it, and only the empty heap has none. -/
theorem leastMember_mem {nodes : List Node} {heap : List Index} {x : Index}
    (h : leastMember nodes heap = some x) : x ∈ heap := by
  induction heap generalizing x with
  | nil => simp [leastMember] at h
  | cons k ks ih =>
    simp only [leastMember] at h
    split at h
    · simp_all
    next m hm =>
      split at h
      · exact List.mem_cons_of_mem _ (ih (by simpa [← Option.some.inj h] using hm))
      · simp_all

theorem leastMember_eq_none {nodes : List Node} {heap : List Index} :
    leastMember nodes heap = none ↔ heap = [] := by
  cases heap with
  | nil => simp [leastMember]
  | cons k ks =>
    simp only [leastMember, reduceCtorEq, iff_false]
    split
    · simp
    · split <;> simp

/-- What an extraction leaves: the extracted member was in the heap and is taken out of it. -/
theorem extractMin_some {nodes : List Node} {heap rest : List Index} {x : Index}
    (h : extractMin nodes heap = some (x, rest)) : x ∈ heap ∧ rest = heap.erase x := by
  simp only [extractMin, Option.map_eq_some_iff, Prod.mk.injEq] at h
  obtain ⟨k, hk, rfl, rfl⟩ := h
  exact ⟨leastMember_mem hk, rfl⟩

/-- Insertion adds exactly the inserted member. -/
theorem mem_heapInsert {k j : Index} {heap : List Index} : j ∈ heapInsert k heap ↔ j = k ∨ j ∈ heap := by
  induction heap with
  | nil => simp [heapInsert]
  | cons i is ih =>
    simp only [heapInsert]
    split
    · simp
    · split
      next h => subst h; simp
      next => simp only [List.mem_cons, ih]; tauto

/-- Insertion keeps the heap's one form, strictly rising indices (log 10). -/
theorem heapInsert_rising {k : Index} {heap : List Index}
    (h : heap.Pairwise fun a b => a.toNat < b.toNat) :
    (heapInsert k heap).Pairwise fun a b => a.toNat < b.toNat := by
  induction heap with
  | nil => simp [heapInsert]
  | cons i is ih =>
    have hi := List.pairwise_cons.mp h
    simp only [heapInsert]
    split
    next hk =>
      refine List.pairwise_cons.mpr ⟨fun b hb => ?_, h⟩
      rcases List.mem_cons.mp hb with rfl | hb
      · exact hk
      · exact hk.trans (hi.1 b hb)
    · split
      next => exact h
      next hk hne =>
        refine List.pairwise_cons.mpr ⟨fun b hb => ?_, ih hi.2⟩
        rcases mem_heapInsert.mp hb with rfl | hb
        · have : i.toNat ≠ b.toNat := fun h => hne (BitVec.eq_of_toNat_eq h.symm)
          omega
        · exact hi.1 b hb

/-- Extraction keeps the heap's one form. -/
theorem extractMin_rising {nodes : List Node} {heap rest : List Index} {x : Index}
    (h : heap.Pairwise fun a b => a.toNat < b.toNat) (he : extractMin nodes heap = some (x, rest)) :
    rest.Pairwise fun a b => a.toNat < b.toNat :=
  (extractMin_some he).2 ▸ h.sublist List.erase_sublist

/-! ## The merge (R112) -/

/-- Everything a merge can do. -/
theorem mergeOnce_some {s t : State} (h : mergeOnce s = some t) :
    ∃ x y rest rest', heapLive s.node s.heap = true ∧ extractMin s.node s.heap = some (x, rest) ∧
      extractMin s.node rest = some (y, rest') ∧ t = joinNodes x y rest' s := by
  unfold mergeOnce at h
  split at h
  next hl =>
    split at h
    · simp at h
    next x rest hx =>
      split at h
      · simp at h
      next y rest' hy => exact ⟨x, y, rest, rest', hl, hx, hy, by simpa using h.symm⟩
  · simp at h

/-- The merge loop does nothing outside P_MERGE. -/
theorem mergeLoop_of_not_merge {n : Nat} {s : State} (h : s.phase ≠ .merge) : mergeLoop n s = some s := by
  unfold mergeLoop; simp [h]

/-- One round of the merge loop in P_MERGE. -/
theorem mergeLoop_of_merge {n : Nat} {s : State} (h : s.phase = .merge) :
    mergeLoop (n + 1) s = (mergeOnce s).bind (mergeLoop n) := by
  conv_lhs => unfold mergeLoop
  simp only [h, ↓reduceIte]
  cases mergeOnce s <;> rfl

/-- The loop ends outside P_MERGE. -/
theorem mergeLoop_phase {n : Nat} {s t : State} (h : mergeLoop n s = some t) : t.phase ≠ .merge := by
  induction n generalizing s with
  | zero =>
    unfold mergeLoop at h
    split at h
    · simp at h
    next hp => simpa [← Option.some.inj h] using hp
  | succ n ih =>
    by_cases hp : s.phase = .merge
    · rw [mergeLoop_of_merge hp, Option.bind_eq_some_iff] at h
      obtain ⟨u, -, hu⟩ := h
      exact ih hu
    · rw [mergeLoop_of_not_merge hp] at h
      simpa [← Option.some.inj h] using hp

/-! ## The window (R50-R54) -/

/-- The offset of a register belongs to it alone. -/
@[simp] theorem atOffset_offset (r : Reg) : Reg.atOffset? r.offset = some r := by
  cases r <;> decide

theorem atOffset_some {o : Nat} {r : Reg} (h : Reg.atOffset? o = some r) : r.offset = o := by
  simpa using List.find?_some h

/-- Where the access check lets an access through. -/
theorem access_window {s : State} {addr bytes o : Nat} (h : s.access addr bytes = .window o) :
    addr = s.build.base + o ∧ o < 256 ∧ bytes = 4 ∧ o % 4 = 0 := by
  unfold State.access at h
  split at h
  · simp at h
  next h1 =>
    split at h
    · simp at h
    next h2 =>
      simp only [Access.window.injEq] at h
      simp only [Bool.or_eq_true, decide_eq_true_eq, ne_eq, not_or, not_not] at h1 h2
      omega

/-- An aligned 32-bit access in the window is let through. -/
theorem access_of_offset {s : State} {o : Nat} (h : o < 256) (h4 : o % 4 = 0) :
    s.access (s.build.base + o) 4 = .window o := by
  unfold State.access
  simp [h4]
  omega

/-- What a host read at a register's offset returns. -/
@[simp] theorem readsAt_offset (s : State) (r : Reg) : s.readsAt r.offset = s.hostReads r := by
  simp [State.readsAt]

/-- A reserved offset reads 0 (R53). -/
theorem readsAt_reserved {s : State} {o : Nat} (h : Reg.atOffset? o = none) : s.readsAt o = 0#32 := by
  simp [State.readsAt, h]

/-- Taking an action off the script changes no value a read returns. -/
@[simp] theorem readsAt_advance (s : State) (rest : List HostAction) (o : Nat) :
    (s.advance rest).readsAt o = s.readsAt o := rfl

/-- With nothing pending a read returns the register itself (R64, R235). -/
theorem hostReads_idle {s : State} (h : s.pending = none) (r : Reg) : s.hostReads r = s.readReg r := by
  simp [State.hostReads, State.busy, h]

/-- Everything a register write can do: nothing, overrun, issue, or store one operand. -/
theorem writeReg_cases (r : Reg) (v : Word) (s : State) :
    writeReg r v s = s ∨ (s.busy = true ∧ writeReg r v s = overrun s) ∨
    (s.busy = false ∧ r = .cmd ∧ writeReg r v s = issueCommand v s) ∨
    (s.busy = false ∧ r = .arg0 ∧ writeReg r v s = { s with arg0 := v }) ∨
    (s.busy = false ∧ r = .arg1 ∧ writeReg r v s = { s with arg1 := v }) ∨
    (s.busy = false ∧ r = .arg2 ∧ writeReg r v s = { s with arg2 := v }) := by
  cases r <;> cases hb : s.busy <;> simp [writeReg, hb]

/-- Everything a host action can do with a next state. -/
theorem hostAct_next {a : HostAction} {rest : List HostAction} {s t : State} (h : hostAct a rest s = .next t) :
    (∃ o, o < 256 ∧ a = .read (s.build.base + o) 4 ∧ t = hostRead o (s.advance rest)) ∨
    (∃ o v, o < 256 ∧ a = .write (s.build.base + o) 4 v ∧ t = hostWrite o v (s.advance rest)) ∨
    (a = .poll ∧ t = hostRead Reg.status.offset (s.advance (if s.busy then .poll :: rest else rest))) ∨
    (a = .reset ∧ t = resetBlock (s.advance rest)) := by
  cases a with
  | read addr bytes =>
    simp only [hostAct] at h
    split at h
    next o ho =>
      obtain ⟨rfl, h1, rfl, -⟩ := access_window ho
      exact .inl ⟨o, h1, rfl, by simpa using h.symm⟩
    · simp at h
  | write addr bytes v =>
    simp only [hostAct] at h
    split at h
    next o ho =>
      obtain ⟨rfl, h1, rfl, -⟩ := access_window ho
      exact .inr (.inl ⟨o, v, h1, rfl, by simpa using h.symm⟩)
    · simp at h
  | poll => exact .inr (.inr (.inl ⟨rfl, by simpa [hostAct] using h.symm⟩))
  | reset => exact .inr (.inr (.inr ⟨rfl, by simpa [hostAct] using h.symm⟩))

/-- A host action is never a fault. -/
theorem hostAct_no_fault {a : HostAction} {rest : List HostAction} {s : State} {f : Fault} :
    hostAct a rest s ≠ .fault f := by
  cases a <;> simp only [hostAct] <;> (try split) <;> simp

/-! ## The step (R59, R232) -/

/-- Whose step it is when a command is pending and its time has come. -/
theorem turn_sequencer {s : State} {w : Word} (h : s.pending = some w) (ht : s.todo = [] ∨ s.delay = 0) :
    s.turn = .sequencer w := by
  unfold State.turn
  rcases ht with ht | ht <;> cases htd : s.todo <;> simp_all

/-- Whose step it is when the host has an action and no completion comes first. -/
theorem turn_host {s : State} {a : HostAction} {rest : List HostAction} (h : s.todo = a :: rest)
    (hd : s.pending = none ∨ s.delay ≠ 0) : s.turn = .host a rest := by
  unfold State.turn
  rcases hd with hd | hd <;> cases hp : s.pending <;> simp_all

/-- Everything a step can be. -/
theorem step_cases (s : State) :
    (∃ w, s.pending = some w ∧ (s.todo = [] ∨ s.delay = 0) ∧ step s = complete w s) ∨
    (∃ a rest, s.todo = a :: rest ∧ (s.pending = none ∨ s.delay ≠ 0) ∧ step s = hostAct a rest s) ∨
    (s.pending = none ∧ s.todo = [] ∧ step s = .next s) := by
  cases hp : s.pending with
  | none =>
    cases ht : s.todo with
    | nil => exact .inr (.inr ⟨rfl, rfl, by simp [step, State.turn, hp, ht]⟩)
    | cons a rest =>
      exact .inr (.inl ⟨a, rest, rfl, .inl rfl, by simp [step, turn_host ht (.inl hp)]⟩)
  | some w =>
    by_cases hq : s.todo = [] ∨ s.delay = 0
    · exact .inl ⟨w, rfl, hq, by simp [step, turn_sequencer hp hq]⟩
    · rw [not_or] at hq
      obtain ⟨a, rest, ht⟩ := List.exists_cons_of_ne_nil hq.1
      exact .inr (.inl ⟨a, rest, ht, .inr hq.2, by simp [step, turn_host ht (.inr hq.2)]⟩)

end Sys2Proof.Machine
end

