-- ==== Sys2Proof/Laws/PerInstr.lean ====
section
/-! SUPPORT. The family `TableRow`: each command's word against its row's mask and match in
spec/opcode_table.json. -/

namespace Sys2Proof.Laws.TableRow

/-- The "mask" of a command's row: its opcode and its reserved bits. -/
def mask (i : Instr) : Word := 0xFF#8 ++ i.opcode.form.reservedMask

/-- The word of a command agrees with its row's "match" on its row's "mask". -/
def Statement (i : Instr) : Prop := encode i &&& mask i = i.opcode.bits ++ 0#24

theorem nop : Statement .nop := by unfold Statement; decide
theorem clear : Statement .clear := by unfold Statement; decide
theorem heapinit : Statement .heapinit := by unfold Statement; decide
theorem merge : Statement .merge := by unfold Statement; decide
theorem build : Statement .build := by unfold Statement; decide
theorem gentable : Statement .gentable := by unfold Statement; decide
theorem decend : Statement .decend := by unfold Statement; decide
theorem ldbegin : Statement .ldbegin := by unfold Statement; decide
theorem ldend : Statement .ldend := by unfold Statement; decide

/-- A symbol placed in IMM leaves form S's reserved bits 0. -/
theorem symbol_reserved (sym : Symbol) : sym.setWidth 24 &&& 0xE00000#24 = 0#24 := by
  apply BitVec.eq_of_getLsbD_eq
  intro k hk
  by_cases h : k < 21
  · have : (0xE00000#24).getLsbD k = false := by interval_cases k <;> rfl
    simp [this]
  · simp [BitVec.getLsbD_of_ge sym k (by omega)]

/-- A character placed in IMM leaves form C's reserved bits 0. -/
theorem character_reserved (chr : Byte) : chr.setWidth 24 &&& 0xFFFF00#24 = 0#24 := by
  apply BitVec.eq_of_getLsbD_eq
  intro k hk
  by_cases h : k < 8
  · have : (0xFFFF00#24).getLsbD k = false := by interval_cases k <;> rfl
    simp [this]
  · simp [BitVec.getLsbD_of_ge chr k (by omega)]

/-- An index placed in IMM leaves form X's reserved bits 0. -/
theorem index_reserved (idx : Index) : idx.setWidth 24 &&& 0xFF0000#24 = 0#24 := by
  apply BitVec.eq_of_getLsbD_eq
  intro k hk
  by_cases h : k < 16
  · have : (0xFF0000#24).getLsbD k = false := by interval_cases k <;> rfl
    simp [this]
  · simp [BitVec.getLsbD_of_ge idx k (by omega)]

/-- A word whose reserved bits are 0 agrees with its row. -/
theorem of_reserved {i : Instr} (h : i.imm &&& i.opcode.form.reservedMask = 0#24) : Statement i := by
  unfold Statement encode mask
  rw [BitVec.and_append, h]
  congr 1
  exact BitVec.and_allOnes

theorem count (sym : Symbol) : Statement (.count sym) := of_reserved (symbol_reserved sym)
theorem encode (sym : Symbol) : Statement (.encode sym) := of_reserved (symbol_reserved sym)
theorem ldent (sym : Symbol) : Statement (.ldent sym) := of_reserved (symbol_reserved sym)
theorem decode (chr : Byte) : Statement (.decode chr) := of_reserved (character_reserved chr)
theorem rdfreq (idx : Index) : Statement (.rdfreq idx) := of_reserved (index_reserved idx)
theorem rdnode (idx : Index) : Statement (.rdnode idx) := of_reserved (index_reserved idx)
theorem rdcode (idx : Index) : Statement (.rdcode idx) := of_reserved (index_reserved idx)

end Sys2Proof.Laws.TableRow
end

