-- ==== Sys2Proof/Tests/Slice0.lean ====
section
/-! SUPPORT. The model's own tests. Expected values are the spec's: vectors V-* and programs P* of
spec/95_test_vectors.md, and encodings written out from spec/30_encoding.md R70-R72. Then a witness for the
hypotheses of each statement. -/

namespace Sys2Proof.Tests

open Sys2Proof.Machine

/-! ## Well-formedness: each check refuses an ill-formed term -/

theorem test_wf_build_small : Build.WellFormed { nMax := 1, base := 0 } = false := by decide
theorem test_wf_build_large : Build.WellFormed { nMax := 32769, base := 0 } = false := by decide
theorem test_wf_build_base : Build.WellFormed { nMax := 256, base := 0x104 } = false := by decide
theorem test_wf_build_ok : Build.WellFormed Config.referenceBuild = true := by decide
theorem test_wf_asm_extra : AsmLine.WellFormed ⟨.build, some 0⟩ = false := by decide
theorem test_wf_asm_missing : AsmLine.WellFormed ⟨.count, none⟩ = false := by decide
theorem test_wf_asm_symbol : AsmLine.WellFormed ⟨.count, some 0x200000⟩ = false := by decide
theorem test_wf_asm_character : AsmLine.WellFormed ⟨.decode, some 0x100⟩ = false := by decide
theorem test_wf_asm_index : AsmLine.WellFormed ⟨.rdnode, some 0x10000⟩ = false := by decide
theorem test_wf_asm_ok : AsmLine.assemble ⟨.count, some 0x1FFFFF⟩ = some (.count 0x1FFFFF#21) := by decide
theorem test_wf_instr : Instr.WellFormed (.encode 0x1FFFFF#21) = true := by decide
theorem test_wf_access_width : HostAction.WellFormed Config.referenceBuild (.read 0x00 2) = false := by decide
theorem test_wf_access_aligned : HostAction.WellFormed Config.referenceBuild (.read 0x02 4) = false := by decide
theorem test_wf_access_window : HostAction.WellFormed Config.referenceBuild (.read 0x100 4) = false := by decide

/-! ## Decoding: each opcode's word, written out bit by bit (R70-R72) -/

theorem test_decode_nop : decode 0b00000000000000000000000000000000#32 = .cmd .nop := by decide
theorem test_decode_clear : decode 0b00000001000000000000000000000000#32 = .cmd .clear := by decide
theorem test_decode_count : decode 0b00010000000000000000000001100001#32 = .cmd (.count 0x61#21) := by decide
theorem test_decode_heapinit : decode 0b00100000000000000000000000000000#32 = .cmd .heapinit := by decide
theorem test_decode_merge : decode 0b00100001000000000000000000000000#32 = .cmd .merge := by decide
theorem test_decode_build : decode 0b00100010000000000000000000000000#32 = .cmd .build := by decide
theorem test_decode_gentable : decode 0b00110000000000000000000000000000#32 = .cmd .gentable := by decide
theorem test_decode_encode : decode 0b01000000000100001111111111111111#32 = .cmd (.encode 0x10FFFF#21) := by decide
theorem test_decode_decode : decode 0b01010000000000000000000000110001#32 = .cmd (.decode 0x31#8) := by decide
theorem test_decode_decend : decode 0b01010001000000000000000000000000#32 = .cmd .decend := by decide
theorem test_decode_ldbegin : decode 0b01100000000000000000000000000000#32 = .cmd .ldbegin := by decide
theorem test_decode_ldent : decode 0b01100001000000000000000001100010#32 = .cmd (.ldent 0x62#21) := by decide
theorem test_decode_ldend : decode 0b01100010000000000000000000000000#32 = .cmd .ldend := by decide
theorem test_decode_rdfreq : decode 0b01110000000000001000000000000001#32 = .cmd (.rdfreq 0x8001#16) := by decide
theorem test_decode_rdnode : decode 0b01110001000000000000000000000100#32 = .cmd (.rdnode 4#16) := by decide
theorem test_decode_rdcode : decode 0b01110010000000000000000000000010#32 = .cmd (.rdcode 2#16) := by decide
/-- V-E2, V-E3, V-E5, V-E6. -/
theorem test_decode_rejects :
    decode 0xFF123456#32 = .illegal ∧ decode 0x00000001#32 = .reserved ∧ decode 0x10E00061#32 = .reserved ∧
      decode 0x50000100#32 = .reserved := by decide
theorem test_encode_count : encode (.count 0x61#21) = 0x10000061#32 := by decide
theorem test_decodeTableWord : decodeTableWord 32 0x71000004 = some (.rdnode 4#16) := by decide

/-! ## The states of Scenario A (P1) and a load, as small states -/

def freqA : List FreqEntry := [⟨0x61#21, 4#32⟩, ⟨0x62#21, 2#32⟩, ⟨0x63#21, 1#32⟩]
def leavesA : List Node := [.leaf 4#32 0x61#21, .leaf 2#32 0x62#21, .leaf 1#32 0x63#21]
def codeA : List CodeEntry := [⟨0x61#21, ⟨1#7, 1#64⟩⟩, ⟨0x62#21, ⟨2#7, 1#64⟩⟩, ⟨0x63#21, ⟨2#7, 0#64⟩⟩]
def counting : State := { State.reset with freq := freqA, total := 7#32 }
def merging : State := { counting with phase := .merge, node := leavesA, heap := [0#16, 1#16, 2#16] }
def built : State :=
  { counting with phase := .tree, node := leavesA ++ [.internal 3#32 2#16 1#16, .internal 7#32 3#16 0#16],
                  heap := [4#16], root := some 4#16 }
def tabled : State := { built with phase := .table, code := codeA }
def loading : State := { State.reset with phase := .load, arg0 := 1#32, arg2 := 2#32 }
def halfDecoded : State := { tabled with acc := ⟨1#7, 0#64⟩ }
def oneSymbol : State := { State.reset with freq := [⟨0x7A#21, 4#32⟩], total := 4#32 }
def oneLeaf : State :=
  { oneSymbol with phase := .tree, node := [.leaf 4#32 0x7A#21], heap := [0#16], root := some 0#16 }
def latched : State := { counting with err := .phase, errcmd := 0x30000000#32 }
def tiny : State := State.resetOf { nMax := 2, base := 0x100 }
def tinyFull : State := { tiny with freq := [⟨0x61#21, 1#32⟩, ⟨0x62#21, 1#32⟩], total := 2#32 }
def saturated : State := { State.reset with freq := [⟨0x61#21, 0xFFFFFFFF#32⟩], total := 0xFFFFFFFF#32 }

/-- The next state of a result; the reset state for a stop. -/
def after : Result → State
  | .next t => t
  | .fault _ => .reset
  | .refused _ => .reset

/-- The state after the sequencer has carried out the word. -/
def ran (w : Nat) (s : State) : State := after (step (s.withFetchWord 32 w))

/-- The result registers. -/
def results (s : State) : Word × Word × Word := (s.res0, s.res1, s.res2)

/-! ## Commands, one step each -/

/-- V-R1. -/
theorem test_reset_registers :
    State.reset.readReg .id = 0x48544201#32 ∧ State.reset.readReg .cfg = 0x00400100#32 ∧
      State.reset.readReg .status = 0#32 := by decide
/-- V-E13: NOP clears SYMV. -/
theorem test_nop : ({ tabled with symv := true } : State).status = 0x32#32 ∧
    (ran 0x00000000 { tabled with symv := true }).status = 0x30#32 := by decide
/-- V-E12. -/
theorem test_clear : (ran 0x01000000 latched).status = 0#32 ∧ (ran 0x01000000 latched).errcmd = 0#32 ∧
    (ran 0x01000000 latched).cmd = 0x01000000#32 := by decide
/-- V-C1. -/
theorem test_count : (ran 0x10000061 .reset).freq = [⟨0x61#21, 1#32⟩] ∧ (ran 0x10000061 .reset).total = 1#32 := by
  decide
/-- V-C6, V-C7, V-C8. -/
theorem test_count_limits : (ran 0x10000063 tinyFull).status = 0x508#32 ∧
    (ran 0x10000061 tinyFull).freq = [⟨0x61#21, 2#32⟩, ⟨0x62#21, 1#32⟩] ∧
    (ran 0x10000061 saturated).status = 0x608#32 := by decide
/-- R110's example. -/
theorem test_heapinit : (ran 0x20000000 counting).node = leavesA ∧ (ran 0x20000000 counting).status = 0x10#32 := by
  decide
/-- R112's example, first merge. -/
theorem test_merge : results (ran 0x21000000 merging) = (3#32, 2#32, 1#32) ∧
    (ran 0x21000000 merging).heap = [0#16, 3#16] := by decide
/-- V-T3. -/
theorem test_merge_phase : (ran 0x21000000 oneLeaf).status = 0x328#32 := by decide
/-- V-T9. -/
theorem test_build : (ran 0x22000000 counting).rootRegister = 0x80000004#32 ∧
    results (ran 0x22000000 counting) = (7#32, 3#32, 0#32) ∧ (ran 0x22000000 counting).status = 0x20#32 := by decide
/-- V-T11. -/
theorem test_build_one : results (ran 0x22000000 oneSymbol) = (0#32, 0#32, 0#32) ∧
    (ran 0x22000000 oneSymbol).rootRegister = 0x80000000#32 := by decide
/-- V-G1. -/
theorem test_gentable : (ran 0x30000000 built).code = codeA ∧ (ran 0x30000000 built).status = 0x30#32 := by decide
/-- V-G2. -/
theorem test_gentable_one : (ran 0x30000000 oneLeaf).code = [⟨0x7A#21, ⟨1#7, 0#64⟩⟩] := by decide
/-- V-N2, V-N4. -/
theorem test_encode : results (ran 0x40000062 tabled) = (1#32, 0#32, 0x6202#32) ∧
    (ran 0x40000064 tabled).status = 0x738#32 := by decide
/-- V-D2. -/
theorem test_decode : results (ran 0x50000031 halfDecoded) = (0x62#32, 0#32, 0#32) ∧
    (ran 0x50000031 halfDecoded).acc = .empty ∧ (ran 0x50000031 halfDecoded).status = 0x32#32 := by decide
/-- V-D1, V-D4. -/
theorem test_decode_partial : (ran 0x50000030 tabled).acc = ⟨1#7, 0#64⟩ ∧
    (ran 0x50000020 tabled).status = 0xA38#32 := by decide
/-- V-D5, V-D7. -/
theorem test_decend : (ran 0x51000000 halfDecoded).status = 0x838#32 ∧
    (ran 0x51000000 halfDecoded).errcmd = 0x51000000#32 ∧ (ran 0x51000000 tabled).status = 0x30#32 := by decide
/-- V-L1. -/
theorem test_ldbegin : (ran 0x60000000 tabled).status = 0x40#32 ∧ (ran 0x60000000 tabled).nsym = 0 := by decide
/-- V-L2, V-L5. -/
theorem test_ldent : (ran 0x61000062 loading).code = [⟨0x62#21, ⟨2#7, 1#64⟩⟩] ∧
    (ran 0x61000061 { loading with arg2 := 0x81#32 }).status = 0x948#32 := by decide
/-- V-L6, V-L7. -/
theorem test_ldent_value : (ran 0x61000061 { loading with arg0 := 2#32, arg2 := 1#32 }).status = 0x948#32 ∧
    (ran 0x61000061 { loading with arg0 := 0#32, arg1 := 1#32, arg2 := 32#32 }).status = 0x948#32 := by decide
/-- V-L14, V-L16. -/
theorem test_ldend : (ran 0x62000000 loading).status = 0x30#32 ∧ (ran 0x62000000 tabled).status = 0x338#32 := by
  decide
/-- V-B1, V-B2. -/
theorem test_rdfreq : results (ran 0x70000001 counting) = (2#32, 0x62#32, 0#32) ∧
    (ran 0x70000003 built).status = 0xC28#32 := by decide
/-- V-B3, V-B4. -/
theorem test_rdnode : results (ran 0x71000000 built) = (4#32, 0x61#32, 0x80000000#32) ∧
    results (ran 0x71000003 built) = (3#32, 2#32, 1#32) := by decide
/-- V-B8. -/
theorem test_rdcode : results (ran 0x72000002 tabled) = (0#32, 0#32, 0x6302#32) := by decide
/-- V-E8, V-E9: PHASE before INVALID_SYMBOL; the latch keeps the first error. -/
theorem test_error_order : (ran 0x101FFFFF built).status = 0x328#32 ∧
    (ran 0x10E00061 (ran 0x101FFFFF built)).errcmd = 0x101FFFFF#32 := by decide

/-! ## The host's side -/

/-- V-R3, V-R5. -/
theorem test_host_writes :
    (after (step { State.reset with todo := [.write 0x08 4 0xFFFFFFFF#32] })).status = 0#32 ∧
      (after (step { State.reset with todo := [.write 0x10 4 0x12345678#32] })).arg0 = 0x12345678#32 := by decide
/-- V-R2: a reserved offset reads 0. -/
theorem test_host_reserved : (after (step { State.reset with todo := [.read 0x1C 4] })).seen = [0#32] := by decide
/-- V-R9: a write while BUSY is dropped and sets OVR. -/
theorem test_host_overrun :
    (hostWrite 0x10 5#32 (presentCommand 0x22000000#32 counting)).arg0 = 0#32 ∧
      (hostWrite 0x0C 0#32 (presentCommand 0x22000000#32 counting)).cmd = 0x22000000#32 ∧
      (hostWrite 0x0C 0#32 (presentCommand 0x22000000#32 counting)).ovr = true := by decide
/-- V-R6. -/
theorem test_byte_lanes : byteLane 0 Config.idValue = 0x01#8 ∧ byteLane 3 Config.idValue = 0x48#8 := by decide
/-- V-R7: a 16-bit read of ID at offset 0x02 is refused. -/
theorem test_host_refused :
    step { State.reset with todo := [.read 0x02 2] } = .refused (.undefinedAccess 0x02 2) := rfl
/-- V-R11: reset abandons the pending command. -/
theorem test_host_reset :
    (after (hostAct .reset [] (presentCommand 0x22000000#32 counting))).pending = none ∧
      (after (hostAct .reset [] (presentCommand 0x22000000#32 counting))).freq = [] := by decide
/-- R234 (b): the boot check of the reset block finds the reference capacity. -/
theorem test_boot : bootCheck [0x00400100#32, 0x48544201#32] = some 256 := by decide

/-! ## The container (V-H*) -/

/-- V-H4, V-H5: the split is at the last colon, and a space is a symbol. -/
theorem test_parse_line : parseLine [0x3A#8, 0x3A#8, 0x30#8] = some ⟨0x3A#21, ⟨1#7, 0#64⟩⟩ ∧
    parseLine [0x20#8, 0x3A#8, 0x30#8] = some ⟨0x20#21, ⟨1#7, 0#64⟩⟩ := by decide
/-- V-H6, V-H7, V-H8. -/
theorem test_parse_line_bad : parseLine [0x61#8, 0x3A#8] = none ∧
    parseLine [0x61#8, 0x62#8, 0x3A#8, 0x30#8] = none ∧ parseLine [] = none := by decide
/-- UTF-8 of U+20AC (K3). -/
theorem test_utf8 : utf8Encode 0x20AC#21 = [0xE2#8, 0x82#8, 0xAC#8] ∧
    utf8One [0xE2#8, 0x82#8, 0xAC#8] = some 0x20AC#21 ∧ utf8One [0xC1#8, 0x81#8] = none := by decide

/-! ## Witnesses: concrete states that meet the hypotheses of the statements -/

theorem counting_freqOk : counting.FreqOk :=
  ⟨by decide, by decide, by decide, by decide, by decide⟩

theorem counting_inv : counting.Inv :=
  ⟨⟨by decide, counting_freqOk, by unfold State.TreeOk counting State.reset State.resetOf; decide⟩,
   ⟨by decide, by simp [counting, State.reset, State.resetOf], by decide⟩, ⟨by decide, by decide, by decide⟩,
   ⟨by decide, by decide, by decide, by decide, by decide, fun h => absurd h (by decide)⟩⟩

theorem merging_forest : merging.Forest :=
  ⟨by decide, by decide, by decide, by decide, by decide⟩

theorem merging_treeInv : merging.TreeInv :=
  ⟨by decide, ⟨by decide, by decide, by decide, by decide, by decide⟩,
   ⟨merging_forest, by decide, by decide, by decide⟩⟩

theorem built_treeDone : built.TreeDone :=
  ⟨⟨by decide, by decide, by decide, by decide, by decide⟩, by decide, fun _ => ⟨4#16, by decide⟩⟩

theorem built_treeInv : built.TreeInv :=
  ⟨by decide, ⟨by decide, by decide, by decide, by decide, by decide⟩, ⟨built_treeDone, by decide⟩⟩

theorem oneLeaf_treeInv : oneLeaf.TreeInv :=
  ⟨by decide, ⟨by decide, by decide, by decide, by decide, by decide⟩,
   ⟨⟨⟨by decide, by decide, by decide, by decide, by decide⟩, by decide, fun _ => ⟨0#16, by decide⟩⟩, by decide⟩⟩

theorem codeA_prefixFree : PrefixFree codeA := by unfold PrefixFree; decide

theorem tabled_inv : tabled.Inv :=
  ⟨⟨by decide, ⟨by decide, by decide, by decide, by decide, by decide⟩,
      .inl ⟨⟨⟨by decide, by decide, by decide, by decide, by decide⟩, by decide, fun _ => ⟨4#16, by decide⟩⟩,
        by decide⟩⟩,
   ⟨by decide, by simp [tabled, built, counting, State.reset, State.resetOf], by decide⟩,
   ⟨by decide, by decide, by decide⟩,
   ⟨by decide, by decide, by decide, by decide, by decide, fun _ _ => ⟨by decide, codeA_prefixFree⟩⟩⟩

/-- A command word pending in a state, its time come. -/
def pend (w : Word) (s : State) : State := presentCommand w s

theorem witness_DecodeAndEncodeAgree : decode 0x61000062#32 = .cmd (.ldent 0x62#21) := by decide

theorem witness_AssemblerPlacesTheOperandOrRefuses :
    Opcode.build.form = .none ∧ Opcode.count.form ≠ .none ∧
    (Opcode.count.form = .symbol ∧ 0x1FFFFF ≤ 0x1FFFFF) ∧ (Opcode.decode.form = .character ∧ 0xFF ≤ 0xFF) ∧
    (Opcode.rdcode.form = .index ∧ 0xFFFF ≤ 0xFFFF) ∧ (Opcode.count.form = .symbol ∧ 0x1FFFFF < 0x200000) ∧
    (Opcode.decode.form = .character ∧ 0xFF < 0x100) ∧ (Opcode.rdcode.form = .index ∧ 0xFFFF < 0x10000) := by
  decide

/-- The sequencer moves because the host has nothing to do, and because its time has come. -/
theorem witness_StepOfThePendingCommandIsExec :
    ((pend 0x10000061#32 counting).pending = some 0x10000061#32 ∧ (pend 0x10000061#32 counting).todo = [] ∧
      decode 0x10000061#32 = .cmd (.count 0x61#21)) ∧
    (pend 0x10000061#32 { counting with todo := [.poll] }).delay = 0 := by decide

theorem witness_EveryWordHasTheReadingOfItsFields :
    (pend 0xFF123456#32 counting).pending = some 0xFF123456#32 ∧ (pend 0xFF123456#32 counting).err = .noError ∧
    decode 0xFF123456#32 = .illegal ∧ decode 0x00000001#32 = .reserved := by decide

theorem witness_WordsThatAreNoCommand :
    (pend 0x02000000#32 counting).pending = some 0x02000000#32 ∧ (pend 0x02000000#32 counting).err = .noError ∧
    (∀ o : Opcode, o.bits.toNat ≠ (0x02000000#32).toNat / 2 ^ 24) ∧
    Opcode.rdfreq.bits.toNat = (0x70010000#32).toNat / 2 ^ 24 ∧
    formReservedField Opcode.rdfreq.form 0x70010000#32 ≠ 0 :=
  ⟨by decide, by decide, fun o => by cases o <;> decide, by decide, by decide⟩

/-- Each clause of R30 has a phase that does not accept the command. -/
theorem witness_CommandsOutOfPhase :
    (pend 0x10000061#32 built).pending = some 0x10000061#32 ∧ (pend 0x10000061#32 built).err = .noError ∧
    built.phase ≠ .count ∧ built.phase ≠ .merge ∧ counting.phase ≠ .tree ∧ built.phase ≠ .table ∧
    tabled.phase ≠ .load := by decide

theorem witness_ErrorEntryIsPrecise :
    (pend 0x30000000#32 counting).pending = some 0x30000000#32 ∧ (pend 0x30000000#32 counting).err = .noError ∧
    (∃ t, complete 0x30000000#32 (pend 0x30000000#32 counting) = .next t ∧ t.err ≠ .noError) :=
  ⟨by decide, by decide, ⟨_, rfl, by decide⟩⟩

theorem witness_LatchedErrorDropsEveryOtherWord :
    latched.err ≠ .noError ∧ latched.pending = none ∧ (0x01000001#32 : Word) ≠ 0x00000000#32 ∧
    (0x01000001#32 : Word) ≠ 0x01000000#32 := by decide

theorem witness_ErrorsComeFromCompletionsOnly :
    ∃ t, step (pend 0x30000000#32 counting) = .next t ∧ t.err ≠ (pend 0x30000000#32 counting).err ∧
      t.err ≠ .noError :=
  ⟨_, rfl, by decide, by decide⟩

/-- NOP's and CLEAR's words with IMM not 0, from a state without and one with an error latched. -/
theorem witness_controlWords :
    ((pend 0x00000001#32 counting).pending = some 0x00000001#32 ∧ (0x00000001#32).toNat / 2 ^ 24 = 0x00 ∧
      (0x00000001#32).toNat % 2 ^ 24 ≠ 0 ∧ counting.err = .noError) ∧
    ((pend 0x01FFFFFF#32 latched).pending = some 0x01FFFFFF#32 ∧ (0x01FFFFFF#32).toNat / 2 ^ 24 = 0x01 ∧
      (0x01FFFFFF#32).toNat % 2 ^ 24 ≠ 0 ∧ latched.err ≠ .noError) := by decide

/-- A dropped command, CLEAR and reset: the three clauses of R206. -/
theorem witness_OnlyClearAndResetLeaveTheLatch :
    (∃ t, step (pend 0x10000061#32 latched) = .next t ∧ latched.err ≠ .noError ∧ t.err = latched.err) ∧
    (∃ t, step (pend 0x01000000#32 latched) = .next t ∧ t.err = .noError) ∧
    ∃ t, step { latched with todo := [.reset] } = .next t ∧ t.err = .noError :=
  ⟨⟨_, rfl, by decide, by decide⟩, ⟨_, rfl, by decide⟩, ⟨_, rfl, by decide⟩⟩

theorem witness_CompletionsKeepOperandsAndHost :
    ∃ t, complete 0x10000061#32 (pend 0x10000061#32 counting) = .next t := ⟨_, rfl⟩

theorem witness_OnlyResultCommandsWriteResults :
    (∃ t, exec .gentable built = .next t) ∧ Instr.gentable.opcode ∉
      [Opcode.merge, .build, .encode, .decode, .rdfreq, .rdnode, .rdcode, .clear] :=
  ⟨⟨_, rfl⟩, by decide⟩

theorem witness_SymvMeansADecodeEmitted :
    ∃ t, complete 0x50000031#32 (pend 0x50000031#32 halfDecoded) = .next t ∧ t.symv = true :=
  ⟨_, rfl, by decide⟩

/-- COUNT: a symbol above the last code point (0x110000), the last code point new, a present symbol, a full table and
a saturated total. -/
theorem witness_CountAddsOneOccurrence :
    (pend 0x10000061#32 counting).pending = some 0x10000061#32 ∧ counting.err = .noError ∧
    counting.phase = .count ∧ built.phase ≠ .count ∧ 0x10FFFF < (0x110000#21).toNat ∧ (0x10FFFF#21).toNat ≤ 0x10FFFF ∧
    (counting.freq[2]? = some { sym := 0x63#21, count := 1#32 } ∧
      ∀ j e, j < 2 → counting.freq[j]? = some e → e.sym ≠ 0x63#21) ∧
    counting.total ≠ 0xFFFFFFFF#32 ∧ saturated.total = 0xFFFFFFFF#32 ∧ (∀ e ∈ counting.freq, e.sym ≠ 0x10FFFF#21) ∧
    tinyFull.build.nMax ≤ tinyFull.freq.length ∧ saturated.freq.length < saturated.build.nMax := by
  refine ⟨by decide, by decide, by decide, by decide, by decide, by decide, ⟨by decide, ?_⟩, by decide, by decide,
    by decide, by decide, by decide⟩
  intro j e hj he
  match j, hj with
  | 0, _ => have : e = ⟨0x61#21, 4#32⟩ := by simpa [counting, freqA] using he.symm
            subst this; decide
  | 1, _ => have : e = ⟨0x62#21, 2#32⟩ := by simpa [counting, freqA] using he.symm
            subst this; decide

theorem exists_of_isOk {α : Type} {x : Except HostError α} (h : x.isOk = true) : ∃ a, x = .ok a := by
  cases x with
  | ok a => exact ⟨a, rfl⟩
  | error e => simp [Except.isOk, Except.toBool] at h

theorem witness_CountingGivesFirstOccurrenceOrder :
    tiny.freq = [] ∧ tiny.total = 0#32 ∧ tiny.pending = none ∧ tiny.err = .noError ∧
    ∃ t, runCommands ([0x62#21, 0x61#21, 0x62#21].map .count) tiny = .ok t :=
  ⟨by decide, by decide, by decide, by decide, exists_of_isOk (by decide +kernel)⟩

theorem witness_HeapinitMakesTheLeaves :
    (pend 0x20000000#32 counting).pending = some 0x20000000#32 ∧ counting.err = .noError ∧ counting.phase = .count ∧
    merging.phase ≠ .count := by decide

theorem witness_ExtractMinTakesTheLeastKey :
    merging.heap ≠ [] ∧ merging.heap.Perm [2#16, 0#16, 1#16] := by decide

theorem witness_MergeJoinsTheTwoLightest :
    (pend 0x21000000#32 merging).pending = some 0x21000000#32 ∧ merging.err = .noError ∧ merging.phase = .merge ∧
    built.phase ≠ .merge ∧ (∀ k ∈ merging.heap, k.toNat < merging.node.length) ∧ merging.heap.Nodup ∧
    2 ≤ merging.heap.length ∧ merging.node.length < 2 ^ 16 :=
  ⟨by decide, by decide, by decide, by decide, by simp [merging, leavesA], by decide, by decide, by decide⟩

/-- Two members left: the merge that completes the tree. -/
theorem witness_lastMerge :
    (ran 0x21000000 merging).heap.length = 2 ∧ (ran 0x21000000 merging).phase = .merge ∧
    (ran 0x21000000 (ran 0x21000000 merging)).phase = .tree := by decide

theorem witness_MergeWeightIsExact : merging.TreeInv ∧ merging.Ready .merge :=
  ⟨merging_treeInv, by decide, by decide⟩

theorem witness_BuildIsHeapinitAndMerges :
    merging.TreeInv ∧ merging.err = .noError ∧ merging.phase = .merge ∧ counting.TreeInv ∧ counting.phase = .count ∧
    built.TreeInv ∧ built.phase ≠ .count ∧ built.phase ≠ .merge ∧ State.reset.nsym ≤ 1 :=
  ⟨merging_treeInv, by decide, by decide, counting_inv.tree, by decide, built_treeInv, by decide, by decide,
   by decide⟩

theorem witness_PartlyMergedBuildGivesTheSameState :
    counting.TreeInv ∧ counting.Ready .heapinit ∧ ∃ h m, exec .heapinit counting = .next h ∧
      execTimes .merge 1 h = .next m ∧ m.err = .noError ∧ m.phase = .merge :=
  ⟨counting_inv.tree, ⟨by decide, by decide⟩, _, _, rfl, rfl, by decide, by decide⟩

theorem witness_BuildMakesOneStrictBinaryTree :
    counting.TreeInv ∧ counting.err = .noError ∧ counting.phase = .count ∧ counting.freq ≠ [] :=
  ⟨counting_inv.tree, by decide, by decide, by decide⟩

theorem witness_CompletedTreeIsFrozen :
    (built.phase = .tree ∧ ∃ t, exec .gentable built = .next t) ∧
    tabled.phase = .table ∧ ∃ t, exec .decend tabled = .next t :=
  ⟨⟨by decide, _, rfl⟩, by decide, _, rfl⟩

/-- No walk in Scenario A's tree is longer than its depth. -/
theorem built_shallow : built.ShallowTree := by
  intro r bs k hr hw hl
  have hr4 : r = 4#16 := by simpa [built] using hr.symm
  subst hr4
  match bs with
  | [] => simp
  | [_] => simp
  | [_, _] => simp
  | b0 :: b1 :: b2 :: bs => cases b0 <;> cases b1 <;> simp [walk, built, leavesA] at hw

/-- A chain of 66 leaves of count 1, each merged with the next: a tree of R32 whose first leaf lies 65 edges deep. No
run builds it (R132), but every hypothesis of the statement about GENTABLE holds of it. -/
def chainLeaves : List FreqEntry := (List.range 66).map fun k => ⟨BitVec.ofNat 21 k, 1#32⟩
def chainJoin (k : Nat) : Node :=
  .internal (BitVec.ofNat 32 (k + 2)) (BitVec.ofNat 16 (if k = 0 then 0 else 65 + k)) (BitVec.ofNat 16 (k + 1))
def chain : State :=
  { State.reset with phase := .tree, freq := chainLeaves, total := 66#32,
                     node := chainLeaves.map FreqEntry.leaf ++ (List.range 65).map chainJoin,
                     heap := [130#16], root := some 130#16 }

theorem chain_treeInv : chain.TreeInv :=
  ⟨by decide +kernel, ⟨by decide +kernel, by decide +kernel, by decide +kernel, by decide +kernel, by decide +kernel⟩,
   ⟨⟨⟨by decide +kernel, by decide +kernel, by decide +kernel, by decide +kernel, by decide +kernel⟩, by decide +kernel, fun _ => ⟨130#16, by decide +kernel⟩⟩, by decide +kernel⟩⟩

theorem chain_notShallow : ¬ chain.ShallowTree := by
  intro h
  have := h 130#16 (List.replicate 65 false) 0#16 rfl (by decide) (by decide)
  simp at this

theorem witness_GentableWritesTheTreePaths :
    built.TreeInv ∧ (pend 0x30000000#32 built).pending = some 0x30000000#32 ∧ built.err = .noError ∧
    built.phase = .tree ∧ counting.phase ≠ .tree ∧ 2 ≤ built.freq.length ∧ built.ShallowTree ∧
    (oneLeaf.TreeInv ∧ oneLeaf.phase = .tree ∧ oneLeaf.freq = [⟨0x7A#21, 4#32⟩]) ∧
    (chain.TreeInv ∧ chain.phase = .tree ∧ 2 ≤ chain.freq.length ∧ ¬ chain.ShallowTree) ∧
    (ran 0x20000000 .reset).phase = .tree ∧ (ran 0x20000000 .reset).freq = [] :=
  ⟨built_treeInv, by decide, by decide, by decide, by decide, by decide, built_shallow,
   ⟨oneLeaf_treeInv, by decide, by decide⟩, ⟨chain_treeInv, by decide, by decide, chain_notShallow⟩, by decide,
   by decide⟩

theorem witness_GeneratedTableIsACompletePrefixCode :
    (built.TreeInv ∧ built.Ready .gentable ∧ 2 ≤ built.freq.length ∧
      ∃ t, exec .gentable built = .next t ∧ t.err = .noError) ∧
    oneLeaf.TreeInv ∧ oneLeaf.Ready .gentable ∧ oneLeaf.freq.length = 1 ∧
      ∃ t, exec .gentable oneLeaf = .next t ∧ t.err = .noError :=
  ⟨⟨built_treeInv, ⟨by decide, by decide⟩, by decide, _, rfl, by decide⟩, oneLeaf_treeInv, ⟨by decide, by decide⟩,
   by decide, _, rfl, by decide⟩

/-- ENCODE: the first value that is no symbol, a symbol without an entry, and an entry. -/
theorem witness_EncodeReturnsTheCodeword :
    (pend 0x40000062#32 tabled).pending = some 0x40000062#32 ∧ tabled.err = .noError ∧ tabled.phase = .table ∧
    counting.phase ≠ .table ∧ 0x10FFFF < (0x110000#21).toNat ∧ (0x10FFFF#21).toNat ≤ 0x10FFFF ∧
    (∀ e ∈ tabled.code, e.sym ≠ 0x10FFFF#21) ∧ (tabled.code.map CodeEntry.sym).Nodup ∧
    ∃ e ∈ tabled.code, e.sym = 0x62#21 := by decide

/-- DECODE: an accumulator of 64 and of 63 bits, a match and no match. -/
theorem witness_DecodeFeedsOneBit :
    (pend 0x50000031#32 halfDecoded).pending = some 0x50000031#32 ∧ halfDecoded.err = .noError ∧
    halfDecoded.phase = .table ∧ counting.phase ≠ .table ∧ (0x2F#8 ≠ 0x30#8 ∧ 0x32#8 ≠ 0x31#8) ∧
    ({ tabled with acc := ⟨64#7, 0xFFFFFFFFFFFFFFFF#64⟩ } : State).acc.len = 64#7 ∧
    ({ tabled with acc := ⟨63#7, 0x7FFFFFFFFFFFFFFF#64⟩ } : State).acc.val.toNat < 2 ^ 63 ∧
    halfDecoded.acc.len.toNat < 64 ∧ halfDecoded.acc.val.toNat < 2 ^ halfDecoded.acc.len.toNat ∧
    (halfDecoded.code.map CodeEntry.word).Nodup ∧
    (∃ e ∈ halfDecoded.code, e.word.len.toNat = halfDecoded.acc.len.toNat + 1 ∧
      e.word.val.toNat = 2 * halfDecoded.acc.val.toNat + 1) ∧
    (∀ e ∈ tabled.code, ¬ (e.word.len.toNat = tabled.acc.len.toNat + 1 ∧
      e.word.val.toNat = 2 * tabled.acc.val.toNat + 0)) := by decide

theorem witness_DecendChecksTheAccumulator :
    (pend 0x51000000#32 tabled).pending = some 0x51000000#32 ∧ tabled.err = .noError ∧ tabled.phase = .table ∧
    tabled.acc.len = 0#7 ∧ halfDecoded.acc.len ≠ 0#7 ∧ counting.phase ≠ .table := by decide

theorem witness_DecodingTheEncodedTextGivesTheText :
    tabled.Inv ∧ tabled.phase = .table ∧ tabled.freq ≠ [] ∧ tabled.err = .noError ∧ tabled.pending = none ∧
    tabled.acc = .empty ∧ ∃ payload t, encodeAll [0x62#21, 0x61#21] tabled = .ok (payload, t) :=
  ⟨tabled_inv, by decide, by decide, by decide, by decide, by decide, _, _, rfl⟩

theorem witness_LdbeginStartsAnEmptyLoad :
    tabled.err = .noError ∧ (pend 0x60000001#32 tabled).pending = some 0x60000001#32 ∧
    (0x60000001#32).toNat / 2 ^ 24 = 0x60 ∧ (0x60000001#32).toNat % 2 ^ 24 ≠ 0 := by decide

/-- LDENT: each ground of BAD_ENTRY at its boundary, a full table, and an accepted entry of 1 and of 64 bits. -/
theorem witness_LdentAddsOneEntry :
    (pend 0x61000062#32 loading).pending = some 0x61000062#32 ∧ loading.err = .noError ∧ loading.phase = .load ∧
    tabled.phase ≠ .load ∧ 0x10FFFF < (0x110000#21).toNat ∧ (0x62#21).toNat ≤ 0x10FFFF ∧
    (0x80#32).toNat / 2 ^ 7 ≠ 0 ∧ (64 < (65#32).toNat % 2 ^ 7) ∧ (2 ^ 1 ≤ (2#32).toNat) ∧
    (∃ e ∈ codeA, e.sym = 0x61#21) ∧ (∃ e ∈ codeA, e.word.len.toNat = 1 ∧ e.word.val.toNat = 1) ∧
    (loading.arg2.toNat / 2 ^ 7 = 0 ∧ loading.arg2.toNat % 2 ^ 7 = 2 ∧
      loading.arg1.toNat * 2 ^ 32 + loading.arg0.toNat < 2 ^ 2) ∧
    (0xFFFFFFFF#32).toNat * 2 ^ 32 + (0xFFFFFFFF#32).toNat < 2 ^ 64 ∧
    (∀ e ∈ loading.code, e.sym ≠ 0x62#21) ∧ loading.code.length < loading.build.nMax ∧
    ({ tiny with phase := .load, code := codeA.take 2 } : State).build.nMax ≤ (codeA.take 2).length := by decide

theorem witness_LdendMakesTheTableValid :
    (pend 0x62000000#32 loading).pending = some 0x62000000#32 ∧ loading.err = .noError ∧ loading.phase = .load ∧
    tabled.phase ≠ .load := by decide

theorem witness_LoadingATableLeavesItsEntries :
    tabled.err = .noError ∧ tabled.pending = none ∧ codeA.length ≤ tabled.build.nMax ∧
    (∀ e ∈ codeA, isSymbol e.sym = true ∧ e.word.valid = true) ∧ (codeA.map CodeEntry.sym).Nodup ∧
    (codeA.map CodeEntry.word).Nodup := by decide

/-- The read-back commands at the last live index and at the first index beyond. -/
theorem witness_readback :
    (pend 0x70000002#32 tabled).pending = some 0x70000002#32 ∧ tabled.err = .noError ∧
    tabled.freq.length ≤ (3#16).toNat ∧ tabled.freq[(2#16).toNat]? = some ⟨0x63#21, 1#32⟩ ∧
    tabled.node.length ≤ (5#16).toNat ∧ tabled.node[(2#16).toNat]? = some (.leaf 1#32 0x63#21) ∧
    tabled.node[(4#16).toNat]? = some (.internal 7#32 3#16 0#16) ∧
    tabled.code.length ≤ (3#16).toNat ∧ tabled.code[(2#16).toNat]? = some ⟨0x63#21, ⟨2#7, 0#64⟩⟩ := by decide

theorem witness_ViewRegistersShowTheTables : tabled.Inv ∧ counting.root = none ∧ tabled.root = some 4#16 :=
  ⟨tabled_inv, by decide, by decide⟩

/-- The first register, the last register, the reserved offsets at both ends of their range, and a POLL, idle and
busy. -/
theorem witness_HostReadHasNoSideEffect :
    ({ State.reset with todo := [.read 0 4] } : State).todo = .read (State.reset.build.base + 0x00) 4 :: [] ∧
    ({ State.reset with todo := [.read 0x54 4] } : State).todo = .read (State.reset.build.base + 0x54) 4 :: [] ∧
    (0x58 < 256 ∧ 0x58 % 4 = 0 ∧ 0x58 ≤ 0x58) ∧ (0xFC < 256 ∧ 0xFC % 4 = 0) ∧ State.reset.pending = none ∧
    ({ State.reset with todo := [.poll] } : State).todo = .poll :: [] ∧
    ({ pend 0#32 .reset with delay := 1 } : State).delay ≠ 0 ∧
    ({ pend 0#32 .reset with delay := 1 } : State).pending ≠ none := by decide

theorem witness_ReadsWhileBusyAreDrawn :
    (pend 0x22000000#32 counting).busy = true ∧ Reg.cmd ∈ [Reg.id, .cfg, .cmd, .arg0, .arg1, .arg2] ∧
    Reg.res0 ∉ [Reg.id, .cfg, .cmd, .arg0, .arg1, .arg2, .status] := by decide

/-- STATUS (read-only) and 0xFC (reserved). -/
theorem witness_ReadOnlyAndReservedWritesAreIgnored :
    ({ State.reset with todo := [.write 8 4 1#32] } : State).todo = .write (State.reset.build.base + 8) 4 1#32 :: [] ∧
    8 ∉ [0x0C, 0x10, 0x14, 0x18] ∧ 0xFC ∉ [0x0C, 0x10, 0x14, 0x18] ∧ 0xFC < 256 ∧ 0xFC % 4 = 0 ∧
    State.reset.pending = none := by decide

theorem witness_WritesWhileIdleIssueOrStore :
    State.reset.pending = none ∧
    ({ State.reset with todo := [.write 0x0C 4 1#32] } : State).todo =
      .write (State.reset.build.base + 0x0C) 4 1#32 :: [] ∧
    ({ State.reset with todo := [.write 0x18 4 1#32] } : State).todo =
      .write (State.reset.build.base + 0x18) 4 1#32 :: [] := by decide

/-- A busy block with a host action to come. -/
def busyWriting : State :=
  { pend 0x22000000#32 counting with delay := 1, todo := [.write 0x10 4 5#32] }

theorem witness_CommandOverrunSetsStickyOvr :
    busyWriting.todo = .write (busyWriting.build.base + 0x10) 4 5#32 :: [] ∧ 0x10 ∈ [0x0C, 0x10, 0x14, 0x18] ∧
    busyWriting.busy = true ∧ busyWriting.delay ≠ 0 := by decide

/-- OVR rising, and falling by CLEAR and by reset. -/
theorem witness_OverrunIsSticky :
    (∃ t, step busyWriting = .next t ∧ busyWriting.ovr = false ∧ t.ovr = true) ∧
    (∃ t, step (pend 0x01000000#32 { counting with ovr := true }) = .next t ∧ t.ovr = false) ∧
    ∃ t, step { counting with ovr := true, todo := [.reset] } = .next t ∧ t.ovr = false :=
  ⟨⟨_, rfl, by decide, by decide⟩, ⟨_, rfl, by decide⟩, ⟨_, rfl, by decide⟩⟩

theorem witness_OperandsAreStableWhilePending :
    busyWriting.busy = true ∧ busyWriting.todo.head? ≠ some .reset ∧ ∃ t, step busyWriting = .next t :=
  ⟨by decide, by decide, _, rfl⟩

/-- The last byte of the window, the first beyond it, a half word, and an odd address. -/
theorem witness_UndefinedAccessesAreRefused :
    State.reset.pending = none ∧ (State.reset.build.base ≤ 255 ∧ 255 < State.reset.build.base + 256 ∧
      (255 - State.reset.build.base) % 4 ≠ 0) ∧ State.reset.build.base + 256 ≤ 256 ∧ tiny.build.base > 255 ∧
    (2 ≠ 4 ∧ ({ State.reset with todo := [.read 0 2] } : State).todo = .read 0 2 :: []) ∧
    ({ State.reset with todo := [.write 255 4 0#32] } : State).todo = .write 255 4 0#32 :: [] := by decide

theorem witness_ResetRestoresTheResetState :
    ({ busyWriting with todo := [.reset] } : State).todo = .reset :: [] ∧ busyWriting.delay ≠ 0 ∧
    counting.pending = none := by decide

theorem busyWriting_treeInv : busyWriting.TreeInv :=
  ⟨by decide, ⟨by decide, by decide, by decide, by decide, by decide⟩, by decide, by decide, by decide, by decide⟩

theorem witness_PendingCommandCompletes :
    busyWriting.TreeInv ∧ busyWriting.pending = some 0x22000000#32 ∧
    quietScript busyWriting.build (busyWriting.todo.take busyWriting.delay) = true :=
  ⟨busyWriting_treeInv, by decide, by decide⟩

theorem loading_inv : loading.Inv :=
  ⟨⟨by decide, ⟨by decide, by decide, by decide, by decide, by decide⟩,
      by unfold State.TreeOk State.NoTree loading State.reset State.resetOf; decide⟩,
   ⟨by decide, by simp [loading, State.reset, State.resetOf], by decide⟩, ⟨by decide, by decide, by decide⟩,
   ⟨by decide, by decide, by decide, by decide, by decide, fun h => absurd h (by decide)⟩⟩

theorem merging_inv : merging.Inv :=
  ⟨merging_treeInv, ⟨by decide, by simp [merging, counting, State.reset, State.resetOf], by decide⟩,
   ⟨by decide, by decide, by decide⟩,
   ⟨by decide, by decide, by decide, by decide, by decide, fun h => absurd h (by decide)⟩⟩

theorem built_inv : built.Inv :=
  ⟨built_treeInv, ⟨by decide, by simp [built, counting, State.reset, State.resetOf], by decide⟩,
   ⟨by decide, by decide, by decide⟩,
   ⟨by decide, by decide, by decide, by decide, by decide, fun h => absurd h (by decide)⟩⟩

/-- A state of the invariant in each phase. -/
theorem witness_PhaseFactsHoldInTheInvariant :
    (counting.Inv ∧ counting.phase = .count) ∧ (merging.Inv ∧ merging.phase = .merge) ∧
    (built.Inv ∧ built.phase = .tree ∧ built.nsym ≠ 0) ∧ (tabled.Inv ∧ tabled.phase = .table) ∧
    (loading.Inv ∧ loading.phase = .load) :=
  ⟨⟨counting_inv, by decide⟩, ⟨merging_inv, by decide⟩, ⟨built_inv, by decide, by decide⟩,
   ⟨tabled_inv, by decide⟩, loading_inv, by decide⟩

theorem witness_ResetMeetsTheInvariant :
    Build.WellFormed { nMax := 2, base := 0 } = true ∧ Build.WellFormed { nMax := 32768, base := 0x100 } = true := by
  decide

/-- A step from a state of every invariant: the last COUNT before BUILD, BUILD, and a DECODE. -/
theorem witness_steps_from_the_invariants :
    (counting.Inv ∧ ∃ t, step counting = .next t) ∧ (merging.TreeInv ∧ ∃ t, step (pend 0x21000000#32 merging) = .next t) ∧
    (tabled.Inv ∧ ∃ t, step { tabled with todo := [.poll] } = .next t) :=
  ⟨⟨counting_inv, _, rfl⟩, ⟨merging_treeInv, _, rfl⟩, tabled_inv, _, rfl⟩

theorem witness_ContainerReaderInvertsTheWriter :
    (∀ e ∈ codeA, isSymbol e.sym = true ∧ isSurrogate e.sym = false ∧ e.word.valid = true) ∧
    (∀ b ∈ [0x30#8, 0x31#8], b = 0x30#8 ∨ b = 0x31#8) ∧
    ∃ out, writeContainer codeA [0x30#8, 0x31#8] = .ok out :=
  ⟨by decide, by decide, _, rfl⟩

theorem witness_ContainerRoundTripGivesTheText :
    tiny.build.WellFormed = true ∧ tiny.pending = none ∧ tiny.err = .noError ∧
    (∀ c ∈ [0x62#21, 0x61#21, 0x62#21], isSurrogate c = false) ∧
    ∃ out t, encodeSequence [0x62#21, 0x61#21, 0x62#21] tiny = .ok (out, t) := by
  obtain ⟨⟨out, t⟩, h⟩ := exists_of_isOk (x := encodeSequence [0x62#21, 0x61#21, 0x62#21] tiny) (by decide +kernel)
  exact ⟨by decide, by decide, by decide, by simp [isSurrogate], out, t, h⟩

end Sys2Proof.Tests
end

section
/-! SUPPORT. What a command can do, through its body: one lemma for each body. -/

namespace Sys2Proof.Machine

/-! ## Commands through their bodies (R90) -/

/-- The body of each command, as `exec` hands it to `command`. -/
def bodyOf : Instr → State → Body
  | .nop => bodyNop
  | .clear => bodyClear
  | .count sym => bodyCount sym
  | .heapinit => bodyHeapinit
  | .merge => bodyMerge
  | .build => bodyBuild
  | .gentable => bodyGentable
  | .encode sym => bodyEncode sym
  | .decode chr => bodyDecode chr
  | .decend => bodyDecend
  | .ldbegin => bodyLdbegin
  | .ldent sym => bodyLdent sym
  | .ldend => bodyLdend
  | .rdfreq idx => bodyRdfreq idx
  | .rdnode idx => bodyRdnode idx
  | .rdcode idx => bodyRdcode idx

theorem exec_eq_command (i : Instr) (s : State) : exec i s = command i (bodyOf i) s := by
  cases i <;> rfl

/-- The state a body leaves, whether or not it emits a symbol. -/
def Body.left : Body → Option State
  | .done u | .emitted u => some u
  | .raises _ | .stuck _ => none

/-- The body answers the state `u`, and emits a symbol exactly when `emits` says so. -/
def Body.Answers (b : Body) (emits : Bool) (u : State) : Prop :=
  b = if emits then .emitted u else .done u

theorem Body.Answers.left {b : Body} {emits : Bool} {u : State} (h : b.Answers emits u) :
    b.left = some u := by
  cases emits <;> simp [Body.Answers] at h <;> simp [h, Body.left]

/-- A body raises no `noError`. -/
theorem bodyOf_raises {i : Instr} {s : State} {e : Err} (h : bodyOf i s = .raises e) : e ≠ .noError := by
  rintro rfl
  cases i with
  | nop | clear | heapinit | ldbegin | ldend => cases h
  | count _ | merge | build | gentable | encode _ | decode _ | decend | ldent _ | rdfreq _ | rdnode _ | rdcode _ =>
    simp only [bodyOf, bodyCount, bodyMerge, bodyBuild, bodyGentable, tableOfTree, bodyEncode, bodyDecode, decodeBit,
      bodyDecend, bodyLdent, bodyRdfreq, bodyRdnode, bodyRdcode] at h
    repeat' split at h
    all_goals cases h

/-- Everything `exec` can do with a next state: drop the command, raise an error, or run its body. -/
theorem exec_next {i : Instr} {s t : State} (h : exec i s = .next t) :
    (s.err ≠ .noError ∧ runsLatched i = false ∧ t = finish false s) ∨
    (∃ e, e ≠ .noError ∧ t = raiseError e s) ∨
    ((s.err = .noError ∨ runsLatched i = true) ∧ accepts s.phase i = true ∧
      ∃ emits u, (bodyOf i s).Answers emits u ∧ t = finish emits u) := by
  rw [exec_eq_command] at h
  by_cases hd : s.err ≠ .noError ∧ runsLatched i = false
  · rw [command_latched hd.1 hd.2] at h
    exact .inl ⟨hd.1, hd.2, by simpa using h.symm⟩
  have hrun : s.err = .noError ∨ runsLatched i = true := or_iff_not_imp_left.mpr (by simpa using hd)
  obtain hl | ⟨-, rfl⟩ | ⟨ha, hb⟩ := command_next h
  · exact .inl hl
  · exact .inr (.inl ⟨.phase, by decide, rfl⟩)
  · obtain ⟨u, hu, rfl⟩ | ⟨u, hu, rfl⟩ | ⟨e, he, rfl⟩ := completeBody_next hb
    · exact .inr (.inr ⟨hrun, ha, false, u, hu, rfl⟩)
    · exact .inr (.inr ⟨hrun, ha, true, u, hu, rfl⟩)
    · exact .inr (.inl ⟨e, bodyOf_raises he, rfl⟩)

/-! ## The bodies, one by one -/

theorem bodyCount_left {sym : Symbol} {s u : State} (h : (bodyCount sym s).left = some u) :
    isSymbol sym = true ∧ s.total ≠ 0xFFFFFFFF#32 ∧
    (hasSymbol sym s.freq = true ∧ u = { s with freq := bumpCount sym s.freq, total := s.total + 1#32 } ∨
     hasSymbol sym s.freq = false ∧ s.freq.length < s.build.nMax ∧
      u = { s with freq := s.freq ++ [{ sym := sym, count := 1#32 }], total := s.total + 1#32 }) := by
  unfold bodyCount at h
  split_ifs at h <;> simp_all [Body.left]

theorem bodyMerge_left {s u : State} (h : (bodyMerge s).left = some u) : mergeOnce s = some u := by
  unfold bodyMerge at h
  split at h <;> simp_all [Body.left]

theorem bodyBuild_left {s u : State} (h : (bodyBuild s).left = some u) :
    ∃ n, mergeLoop n (if s.phase = .count then heapInit s else s) = some u := by
  simp only [bodyBuild] at h
  split at h
  next v hv => exact ⟨_, hv.trans (by simpa [Body.left] using h)⟩
  next => simp [Body.left] at h

/-- The table GENTABLE makes, by the number of leaves (R130). -/
def State.GentableMakes (s : State) (es : List CodeEntry) : Prop :=
  (s.freq = [] ∧ es = []) ∨
  (∃ e, s.freq = [e] ∧ es = [{ sym := e.sym, word := { len := 1#7, val := 0#64 } }]) ∨
  (2 ≤ s.freq.length ∧ ∃ ps, rootPaths s = some ps ∧ tooLong ps = false ∧
    codeEntries s.node ps (List.range s.freq.length) = some es)

theorem bodyGentable_left {s u : State} (h : (bodyGentable s).left = some u) :
    ∃ es, s.GentableMakes es ∧ u = { s with code := es, acc := .empty, phase := .table } := by
  unfold bodyGentable at h
  split at h
  next hf => exact ⟨[], .inl ⟨hf, rfl⟩, by simpa [Body.left] using h.symm⟩
  next e hf => exact ⟨_, .inr (.inl ⟨e, hf, rfl⟩), by simpa [Body.left] using h.symm⟩
  next h0 h1 =>
    have hlen : 2 ≤ s.freq.length := by
      match hf : s.freq with
      | [] => exact absurd hf h0
      | [e] => exact absurd hf (h1 e)
      | _ :: _ :: _ => simp
    unfold tableOfTree at h
    split at h
    · simp [Body.left] at h
    next ps hps =>
      split_ifs at h with hl
      · simp [Body.left] at h
      · split at h
        · simp [Body.left] at h
        next es hes =>
          exact ⟨es, .inr (.inr ⟨hlen, ps, hps, by simpa using hl, hes⟩), by simpa [Body.left] using h.symm⟩

theorem bodyEncode_left {sym : Symbol} {s u : State} (h : (bodyEncode sym s).left = some u) :
    ∃ e, s.codeOf sym = some e ∧ u = setCodeResults e s := by
  unfold bodyEncode at h
  split_ifs at h
  · simp [Body.left] at h
  · split at h
    · simp [Body.left] at h
    next e he => exact ⟨e, he, by simpa [Body.left] using h.symm⟩

/-- DECODE with a payload character and room in the accumulator (R150). -/
theorem bodyDecode_answers {chr : Byte} {s u : State} {emits : Bool} (h : (bodyDecode chr s).Answers emits u) :
    ∃ b, charBit chr = some b ∧ s.acc.len ≠ 64#7 ∧
      ((∃ e, emits = true ∧ s.entryOf (s.acc.append b) = some e ∧
          u = setResults (zext32 e.sym) 0#32 0#32 { s with acc := .empty }) ∨
       (emits = false ∧ s.entryOf (s.acc.append b) = none ∧ u = { s with acc := s.acc.append b })) := by
  unfold bodyDecode at h
  split at h
  · cases emits <;> simp [Body.Answers] at h
  next b hb =>
    refine ⟨b, hb, ?_⟩
    split_ifs at h with hl
    · cases emits <;> simp [Body.Answers] at h
    · refine ⟨hl, ?_⟩
      simp only [decodeBit] at h
      split at h <;> cases emits <;> simp_all [Body.Answers]

theorem bodyDecend_left {s u : State} (h : (bodyDecend s).left = some u) : s.acc.len = 0#7 ∧ u = s := by
  unfold bodyDecend at h
  split at h <;> simp_all [Body.left]

theorem bodyLdent_left {sym : Symbol} {s u : State} (h : (bodyLdent sym s).left = some u) :
    isSymbol sym = true ∧ badEntry sym s = false ∧ s.code.length < s.build.nMax ∧
      u = { s with code := s.code ++ [{ sym := sym, word := s.argWord }] } := by
  unfold bodyLdent at h
  split_ifs at h <;> simp_all [Body.left]

theorem bodyRdfreq_left {idx : Index} {s u : State} (h : (bodyRdfreq idx s).left = some u) :
    ∃ a b c, u = setResults a b c s := by
  unfold bodyRdfreq at h
  split at h
  · simp [Body.left] at h
  next e he => exact ⟨_, _, _, by simpa [Body.left] using h.symm⟩

theorem bodyRdnode_left {idx : Index} {s u : State} (h : (bodyRdnode idx s).left = some u) :
    ∃ a b c, u = setResults a b c s := by
  unfold bodyRdnode at h
  split at h
  · simp [Body.left] at h
  · exact ⟨_, _, _, by simpa [Body.left] using h.symm⟩
  · exact ⟨_, _, _, by simpa [Body.left] using h.symm⟩

theorem bodyRdcode_left {idx : Index} {s u : State} (h : (bodyRdcode idx s).left = some u) :
    ∃ e, u = setCodeResults e s := by
  unfold bodyRdcode at h
  split at h
  · simp [Body.left] at h
  next e he => exact ⟨e, by simpa [Body.left] using h.symm⟩

end Sys2Proof.Machine
end

section
/-! SUPPORT. What a completion, a host action and a step can do: the frames they keep, the effects of the commands, and
the induction step of the invariants. -/

namespace Sys2Proof.Machine

/-! ## Two frames -/

/-- `t` has the build, the phase and the tables of `s`. -/
structure State.SameTables (s t : State) : Prop where
  build : t.build = s.build
  phase : t.phase = s.phase
  freq  : t.freq = s.freq
  total : t.total = s.total
  node  : t.node = s.node
  heap  : t.heap = s.heap
  root  : t.root = s.root
  code  : t.code = s.code

theorem sameTables_finish (b : Bool) (s : State) : s.SameTables (finish b s) :=
  ⟨rfl, rfl, rfl, rfl, rfl, rfl, rfl, rfl⟩

theorem sameTables_raiseError (e : Err) (s : State) : s.SameTables (raiseError e s) :=
  ⟨rfl, rfl, rfl, rfl, rfl, rfl, rfl, rfl⟩

theorem sameTables_setResults (a b c : Word) (s : State) : s.SameTables (setResults a b c s) :=
  ⟨rfl, rfl, rfl, rfl, rfl, rfl, rfl, rfl⟩

theorem sameTables_advance (rest : List HostAction) (s : State) : s.SameTables (s.advance rest) :=
  ⟨rfl, rfl, rfl, rfl, rfl, rfl, rfl, rfl⟩

theorem sameTables_resetBlock (s : State) : (State.resetOf s.build).SameTables (resetBlock s) :=
  ⟨rfl, rfl, rfl, rfl, rfl, rfl, rfl, rfl⟩

theorem State.SameTables.refl (s : State) : s.SameTables s := ⟨rfl, rfl, rfl, rfl, rfl, rfl, rfl, rfl⟩

theorem State.SameTables.trans {s t u : State} (h : s.SameTables t) (h' : t.SameTables u) : s.SameTables u :=
  ⟨h'.build.trans h.build, h'.phase.trans h.phase, h'.freq.trans h.freq, h'.total.trans h.total,
   h'.node.trans h.node, h'.heap.trans h.heap, h'.root.trans h.root, h'.code.trans h.code⟩

/-- `t` has the tables, the accumulator, the latch and SYMV of `s`, and either CMD and PENDING of `s` or a word just
issued: what a host action but the reset leaves. -/
structure State.SameBlock (s t : State) : Prop extends s.SameTables t where
  acc     : t.acc = s.acc
  err     : t.err = s.err
  errcmd  : t.errcmd = s.errcmd
  symv    : t.symv = s.symv
  pending : (t.pending = s.pending ∧ t.cmd = s.cmd) ∨ t.pending = some t.cmd

theorem State.SameBlock.refl (s : State) : s.SameBlock s :=
  ⟨.refl s, rfl, rfl, rfl, rfl, .inl ⟨rfl, rfl⟩⟩

/-- A register write is a host action that leaves the block's tables and latch (R54, R57). -/
theorem sameBlock_writeReg (r : Reg) (v : Word) (s : State) : s.SameBlock (writeReg r v s) := by
  obtain h | ⟨-, h⟩ | ⟨-, -, h⟩ | ⟨-, -, h⟩ | ⟨-, -, h⟩ | ⟨-, -, h⟩ := writeReg_cases r v s <;> rw [h]
  · exact .refl s
  · exact ⟨⟨rfl, rfl, rfl, rfl, rfl, rfl, rfl, rfl⟩, rfl, rfl, rfl, rfl, .inl ⟨rfl, rfl⟩⟩
  · exact ⟨⟨rfl, rfl, rfl, rfl, rfl, rfl, rfl, rfl⟩, rfl, rfl, rfl, rfl, .inr rfl⟩
  all_goals exact ⟨⟨rfl, rfl, rfl, rfl, rfl, rfl, rfl, rfl⟩, rfl, rfl, rfl, rfl, .inl ⟨rfl, rfl⟩⟩

theorem sameBlock_hostWrite (o : Nat) (v : Word) (s : State) : s.SameBlock (hostWrite o v s) := by
  unfold hostWrite
  split
  · exact sameBlock_writeReg _ v s
  · exact .refl s

/-- A host action resets the block or leaves its tables and latch. -/
theorem hostAct_sameBlock {a : HostAction} {rest : List HostAction} {s t : State} (h : hostAct a rest s = .next t) :
    s.SameBlock t ∨ t = resetBlock (s.advance rest) := by
  obtain ⟨o, -, -, rfl⟩ | ⟨o, v, -, -, rfl⟩ | ⟨-, rfl⟩ | ⟨-, rfl⟩ := hostAct_next h
  · exact .inl ⟨⟨rfl, rfl, rfl, rfl, rfl, rfl, rfl, rfl⟩, rfl, rfl, rfl, rfl, .inl ⟨rfl, rfl⟩⟩
  · have hw := sameBlock_hostWrite o v (s.advance rest)
    exact .inl ⟨(sameTables_advance rest s).trans hw.toSameTables, hw.acc, hw.err, hw.errcmd, hw.symv, hw.pending⟩
  · exact .inl ⟨⟨rfl, rfl, rfl, rfl, rfl, rfl, rfl, rfl⟩, rfl, rfl, rfl, rfl, .inl ⟨rfl, rfl⟩⟩
  · exact .inr rfl

/-! ## The tree commands (R110-R114) -/

/-- `t` is in P_MERGE or P_TREE and differs from `s` only in the arena, the heap, the root, the phase and the results:
what HEAPINIT, MERGE and BUILD leave. -/
structure State.OnlyTree (s t : State) : Prop where
  build  : t.build = s.build
  freq   : t.freq = s.freq
  total  : t.total = s.total
  code   : t.code = s.code
  acc    : t.acc = s.acc
  err    : t.err = s.err
  errcmd : t.errcmd = s.errcmd
  phase  : t.phase = .merge ∨ t.phase = .tree

theorem State.OnlyTree.trans {s t u : State} (h : s.OnlyTree t) (h' : t.OnlyTree u) : s.OnlyTree u :=
  ⟨h'.build.trans h.build, h'.freq.trans h.freq, h'.total.trans h.total, h'.code.trans h.code, h'.acc.trans h.acc,
   h'.err.trans h.err, h'.errcmd.trans h.errcmd, h'.phase⟩

theorem State.OnlyTree.refl {s : State} (h : s.phase = .merge) : s.OnlyTree s :=
  ⟨rfl, rfl, rfl, rfl, rfl, rfl, rfl, .inl h⟩

theorem onlyTree_heapInit (s : State) : s.OnlyTree (heapInit s) := by
  unfold heapInit
  split
  · exact ⟨rfl, rfl, rfl, rfl, rfl, rfl, rfl, .inr rfl⟩
  · exact ⟨rfl, rfl, rfl, rfl, rfl, rfl, rfl, .inr rfl⟩
  · exact ⟨rfl, rfl, rfl, rfl, rfl, rfl, rfl, .inl rfl⟩

theorem onlyTree_joinNodes (x y : Index) (rest : List Index) {s : State} (h : s.phase = .merge) :
    s.OnlyTree (joinNodes x y rest s) := by
  simp only [joinNodes]
  split
  · exact ⟨rfl, rfl, rfl, rfl, rfl, rfl, rfl, .inr rfl⟩
  · exact ⟨rfl, rfl, rfl, rfl, rfl, rfl, rfl, .inl h⟩

theorem onlyTree_mergeOnce {s t : State} (hp : s.phase = .merge) (h : mergeOnce s = some t) : s.OnlyTree t := by
  obtain ⟨x, y, -, rest, -, -, -, rfl⟩ := mergeOnce_some h
  exact onlyTree_joinNodes x y rest hp

/-- A property every merge keeps is kept by the merge loop. -/
theorem mergeLoop_keeps {P : State → Prop} {n : Nat} {s t : State}
    (merge : ∀ {s t}, s.phase = .merge → mergeOnce s = some t → P s → P t)
    (hs : P s) (h : mergeLoop n s = some t) : P t := by
  induction n generalizing s with
  | zero =>
    unfold mergeLoop at h
    split at h
    · simp at h
    · exact Option.some.inj h ▸ hs
  | succ n ih =>
    by_cases hp : s.phase = .merge
    · rw [mergeLoop_of_merge hp, Option.bind_eq_some_iff] at h
      obtain ⟨u, hu, ht⟩ := h
      exact ih (merge hp hu hs) ht
    · rw [mergeLoop_of_not_merge hp] at h
      exact Option.some.inj h ▸ hs

/-- A property HEAPINIT establishes or P_MERGE has, and every merge keeps, holds after BUILD. -/
theorem bodyBuild_keeps {P : State → Prop} {s t : State} (ha : accepts s.phase .build = true)
    (count : s.phase = .count → P (heapInit s)) (start : s.phase = .merge → P s)
    (merge : ∀ {s t}, s.phase = .merge → mergeOnce s = some t → P s → P t)
    (h : (bodyBuild s).left = some t) : P t := by
  obtain ⟨n, hn⟩ := bodyBuild_left h
  refine mergeLoop_keeps merge ?_ hn
  split
  next hc => exact count hc
  next hc => exact start (by simpa [accepts, hc] using ha)

theorem onlyTree_bodyBuild {s t : State} (ha : accepts s.phase .build = true)
    (h : (bodyBuild s).left = some t) : s.OnlyTree t :=
  bodyBuild_keeps (P := s.OnlyTree) ha (fun _ => onlyTree_heapInit s) .refl
    (fun hp hm hs => hs.trans (onlyTree_mergeOnce hp hm)) h

/-! ## Every command -/

/-- Everything a body that runs can do: `s.Effect i emits u` when `i`, accepted in `s`, leaves `u` and emits a symbol
or not (R90-R172). The values that ENCODE and the readbacks put in RES0 to RES2 are left open. -/
inductive State.Effect (s : State) : Instr → Bool → State → Prop
  | unchanged {i : Instr} (hi : i = .nop ∨ i = .decend) : s.Effect i false s
  | clear : s.Effect .clear false (clearBlock s)
  | bump (sym : Symbol) (hp : s.phase = .count) (htotal : s.total ≠ 0xFFFFFFFF#32)
      (hold : hasSymbol sym s.freq = true) :
      s.Effect (.count sym) false { s with freq := bumpCount sym s.freq, total := s.total + 1#32 }
  | add (sym : Symbol) (hp : s.phase = .count) (htotal : s.total ≠ 0xFFFFFFFF#32) (hsym : isSymbol sym = true)
      (hnew : hasSymbol sym s.freq = false) (hroom : s.freq.length < s.build.nMax) :
      s.Effect (.count sym) false
        { s with freq := s.freq ++ [{ sym := sym, count := 1#32 }], total := s.total + 1#32 }
  | heapinit (hp : s.phase = .count) : s.Effect .heapinit false (heapInit s)
  | merge {u : State} (hp : s.phase = .merge) (h : mergeOnce s = some u) : s.Effect .merge false u
  | build {u : State} (ha : accepts s.phase .build = true) (h : (bodyBuild s).left = some u) : s.Effect .build false u
  | gentable (es : List CodeEntry) (hp : s.phase = .tree) (h : s.GentableMakes es) :
      s.Effect .gentable false { s with code := es, acc := .empty, phase := .table }
  | results {i : Instr} (a b c : Word) (hi : i.opcode ∈ [.encode, .rdfreq, .rdnode, .rdcode]) :
      s.Effect i false (setResults a b c s)
  | append (chr : Byte) (b : Bool) (hp : s.phase = .table) (hroom : s.acc.len ≠ 64#7) :
      s.Effect (.decode chr) false { s with acc := s.acc.append b }
  | emit (chr : Byte) (b : Bool) (e : CodeEntry) (hp : s.phase = .table)
      (he : s.entryOf (s.acc.append b) = some e) :
      s.Effect (.decode chr) true (setResults (zext32 e.sym) 0#32 0#32 { s with acc := .empty })
  | ldbegin : s.Effect .ldbegin false { emptyTables s with phase := .load }
  | ldent (sym : Symbol) (hp : s.phase = .load) (hsym : isSymbol sym = true) (hbad : badEntry sym s = false)
      (hroom : s.code.length < s.build.nMax) :
      s.Effect (.ldent sym) false { s with code := s.code ++ [{ sym := sym, word := s.argWord }] }
  | ldend (hp : s.phase = .load) : s.Effect .ldend false { s with acc := .empty, phase := .table }

/-- Only DECODE emits. -/
theorem not_emits_of_not_decode {i : Instr} {s u : State} (hi : ∀ chr, i ≠ .decode chr) :
    ¬ (bodyOf i s).Answers true u := by
  intro h
  replace h : bodyOf i s = .emitted u := h
  cases i with
  | decode chr => exact hi chr rfl
  | nop | clear | heapinit | ldbegin | ldend => cases h
  | count _ | merge | build | gentable | encode _ | decend | ldent _ | rdfreq _ | rdnode _ | rdcode _ =>
    simp only [bodyOf, bodyCount, bodyMerge, bodyBuild, bodyGentable, tableOfTree, bodyEncode, bodyDecend,
      bodyLdent, bodyRdfreq, bodyRdnode, bodyRdcode] at h
    repeat' split at h
    all_goals cases h

theorem effect_of_body {i : Instr} {s u : State} {emits : Bool} (ha : accepts s.phase i = true)
    (h : (bodyOf i s).Answers emits u) : s.Effect i emits u := by
  by_cases hd : ∃ chr, i = .decode chr
  · obtain ⟨chr, rfl⟩ := hd
    have hp : s.phase = .table := by simpa [accepts] using ha
    obtain ⟨b, -, hroom, ⟨e, rfl, he, rfl⟩ | ⟨rfl, -, rfl⟩⟩ := bodyDecode_answers h
    · exact .emit chr b e hp he
    · exact .append chr b hp hroom
  obtain rfl : emits = false := by
    cases emits with
    | false => rfl
    | true => exact absurd h (not_emits_of_not_decode (by simpa using hd))
  have hleft := h.left
  cases i with
  | nop => exact Option.some.inj hleft ▸ .unchanged (.inl rfl)
  | clear => exact Option.some.inj hleft ▸ .clear
  | count sym =>
    have hp : s.phase = .count := by simpa [accepts] using ha
    obtain ⟨hsym, htotal, ⟨hold, rfl⟩ | ⟨hnew, hroom, rfl⟩⟩ := bodyCount_left hleft
    · exact .bump sym hp htotal hold
    · exact .add sym hp htotal hsym hnew hroom
  | heapinit => exact Option.some.inj hleft ▸ .heapinit (by simpa [accepts] using ha)
  | merge => exact .merge (by simpa [accepts] using ha) (bodyMerge_left hleft)
  | build => exact .build ha hleft
  | gentable =>
    obtain ⟨es, hes, rfl⟩ := bodyGentable_left hleft
    exact .gentable es (by simpa [accepts] using ha) hes
  | encode sym =>
    obtain ⟨e, -, rfl⟩ := bodyEncode_left hleft
    exact .results _ _ _ (by simp [Instr.opcode])
  | decode chr => exact absurd ⟨chr, rfl⟩ hd
  | decend =>
    obtain ⟨-, rfl⟩ := bodyDecend_left hleft
    exact .unchanged (.inr rfl)
  | ldbegin => exact Option.some.inj hleft ▸ .ldbegin
  | ldent sym =>
    obtain ⟨hsym, hbad, hroom, rfl⟩ := bodyLdent_left hleft
    exact .ldent sym (by simpa [accepts] using ha) hsym hbad hroom
  | ldend => exact Option.some.inj hleft ▸ .ldend (by simpa [accepts] using ha)
  | rdfreq idx =>
    obtain ⟨a, b, c, rfl⟩ := bodyRdfreq_left hleft
    exact .results a b c (by simp [Instr.opcode])
  | rdnode idx =>
    obtain ⟨a, b, c, rfl⟩ := bodyRdnode_left hleft
    exact .results a b c (by simp [Instr.opcode])
  | rdcode idx =>
    obtain ⟨e, rfl⟩ := bodyRdcode_left hleft
    exact .results _ _ _ (by simp [Instr.opcode])

/-- Everything a command can do with a next state: it is dropped, it raises an error, or it has its effect. -/
theorem exec_effect {i : Instr} {s t : State} (h : exec i s = .next t) :
    t = finish false s ∨ (∃ e, e ≠ .noError ∧ t = raiseError e s) ∨
    ((s.err = .noError ∨ runsLatched i = true) ∧ ∃ emits u, s.Effect i emits u ∧ t = finish emits u) := by
  obtain ⟨-, -, ht⟩ | ht | ⟨hrun, ha, emits, u, hu, ht⟩ := exec_next h
  · exact .inl ht
  · exact .inr (.inl ht)
  · exact .inr (.inr ⟨hrun, emits, u, effect_of_body ha hu, ht⟩)

/-- Everything the completion of a word can do with a next state. -/
theorem complete_effect {w : Word} {s t : State} (h : complete w s = .next t) :
    t = finish false s ∨ (∃ e, e ≠ .noError ∧ t = raiseError e s) ∨
    ∃ i, decode w = .cmd i ∧ (s.err = .noError ∨ runsLatched i = true) ∧
      ∃ emits u, s.Effect i emits u ∧ t = finish emits u := by
  have reject {e : Err} (he : e ≠ .noError) (hr : rejectWord e s = .next t) :
      t = finish false s ∨ ∃ e, e ≠ .noError ∧ t = raiseError e s := by
    obtain ⟨-, h'⟩ | ⟨-, h'⟩ := rejectWord_cases e s <;> rw [hr] at h'
    · exact .inl (by simpa using h')
    · exact .inr ⟨e, he, by simpa using h'⟩
  obtain ⟨i, hi, hx⟩ | ⟨-, hx⟩ | ⟨-, hx⟩ := complete_cases w s <;> rw [hx] at h
  · exact (exec_effect h).imp_right (.imp_right fun ht => ⟨i, hi, ht⟩)
  · exact (reject (by decide) h).imp_right .inl
  · exact (reject (by decide) h).imp_right .inl

/-- Everything a step can do with a next state. -/
theorem step_effect {s t : State} (h : step s = .next t) :
    s.SameBlock t ∨ (∃ rest, t = resetBlock (s.advance rest)) ∨
    t = finish false s ∨ (∃ e, e ≠ .noError ∧ t = raiseError e s) ∨
    ∃ i emits u, (s.err = .noError ∨ runsLatched i = true) ∧ s.Effect i emits u ∧ t = finish emits u := by
  obtain ⟨w, -, -, hx⟩ | ⟨a, rest, -, -, hx⟩ | ⟨-, -, hx⟩ := step_cases s <;> rw [hx] at h
  · obtain hd | hr | ⟨i, -, hrun, emits, u, hi⟩ := complete_effect h
    · exact .inr (.inr (.inl hd))
    · exact .inr (.inr (.inr (.inl hr)))
    · exact .inr (.inr (.inr (.inr ⟨i, emits, u, hrun, hi⟩)))
  · exact (hostAct_sameBlock h).imp_right fun hr => .inl ⟨rest, hr⟩
  · obtain rfl : s = t := by simpa using h
    exact .inl (.refl s)

/-- A property of the tables and the phase is kept by every step when the reset state has it and every effect of a
command keeps it. -/
theorem step_keeps {P : State → Prop} {s t : State} (frame : ∀ {s t}, s.SameTables t → P s → P t)
    (reset : P s → P (State.resetOf s.build)) (effect : ∀ {i emits u}, s.Effect i emits u → P s → P u)
    (hs : P s) (h : step s = .next t) : P t := by
  obtain hb | ⟨rest, rfl⟩ | rfl | ⟨e, -, rfl⟩ | ⟨i, emits, u, -, hu, rfl⟩ := step_effect h
  · exact frame hb.toSameTables hs
  · exact frame (sameTables_resetBlock _) (reset hs)
  · exact frame (sameTables_finish _ _) hs
  · exact frame (sameTables_raiseError _ _) hs
  · exact frame (sameTables_finish _ _) (effect hu hs)

end Sys2Proof.Machine
end

section
/-! SUPPORT. The frequency table's invariant (R31, R100). -/

namespace Sys2Proof.Machine

theorem freqOk_of_eq {s t : State} (hb : t.build = s.build) (hf : t.freq = s.freq) (ht : t.total = s.total)
    (h : s.FreqOk) : t.FreqOk := by
  obtain ⟨h1, h2, h3, h4, h5⟩ := h
  constructor <;> simpa only [hb, hf, ht]

/-- The empty frequency table. -/
theorem freqOk_of_empty {s : State} (hf : s.freq = []) (ht : s.total = 0#32) : s.FreqOk := by
  constructor <;> simp [hf, ht]

theorem map_sym_bumpCount (sym : Symbol) (freq : List FreqEntry) :
    (bumpCount sym freq).map FreqEntry.sym = freq.map FreqEntry.sym := by
  induction freq with
  | nil => rfl
  | cons e es ih =>
    simp only [bumpCount]
    split <;> simp [ih]

theorem length_bumpCount (sym : Symbol) (freq : List FreqEntry) : (bumpCount sym freq).length = freq.length := by
  simpa using congrArg List.length (map_sym_bumpCount sym freq)

/-- An entry after a bump is an old one, or an old one with its count one higher. -/
theorem mem_bumpCount {sym : Symbol} {freq : List FreqEntry} {e : FreqEntry} (h : e ∈ bumpCount sym freq) :
    e ∈ freq ∨ ∃ f ∈ freq, e = { f with count := f.count + 1#32 } := by
  induction freq with
  | nil => simp [bumpCount] at h
  | cons f fs ih =>
    simp only [bumpCount] at h
    split at h <;> simp only [List.mem_cons] at h ⊢ <;> grind

theorem toNat_add_one {w : Word} (h : w.toNat + 1 < 2 ^ 32) : (w + 1#32).toNat = w.toNat + 1 :=
  BitVec.toNat_add_of_lt h

/-- Counting a symbol of the table adds one to the sum of the counts. -/
theorem sum_bumpCount {sym : Symbol} {freq : List FreqEntry} (hs : hasSymbol sym freq = true)
    (hlt : ∀ e ∈ freq, e.count.toNat + 1 < 2 ^ 32) :
    ((bumpCount sym freq).map fun e => e.count.toNat).sum = (freq.map fun e => e.count.toNat).sum + 1 := by
  induction freq with
  | nil => simp [hasSymbol] at hs
  | cons e es ih =>
    simp only [bumpCount]
    split
    next =>
      have := toNat_add_one (hlt e List.mem_cons_self)
      simp only [List.map_cons, List.sum_cons, this]; omega
    next hne =>
      have hes : hasSymbol sym es = true := by simpa [hasSymbol, hne] using hs
      have := ih hes fun f hf => hlt f (List.mem_cons_of_mem _ hf)
      simp only [List.map_cons, List.sum_cons, this]; omega

section
variable {s : State} {sym : Symbol} (hs : s.FreqOk) (htotal : s.total ≠ 0xFFFFFFFF#32)
include htotal

theorem toNat_total_succ : (s.total + 1#32).toNat = s.total.toNat + 1 := by
  have : s.total.toNat ≠ (0xFFFFFFFF#32).toNat := fun h => htotal (BitVec.eq_of_toNat_eq h)
  exact toNat_add_one (by simp at this; omega)

include hs

/-- COUNT of a symbol of the table keeps the frequency table's invariant (R100). -/
theorem freqOk_bump (hold : hasSymbol sym s.freq = true) :
    ({ s with freq := bumpCount sym s.freq, total := s.total + 1#32 } : State).FreqOk := by
  have htot := toNat_total_succ htotal
  have hroom : ∀ e ∈ s.freq, e.count.toNat + 1 < 2 ^ 32 := fun e he => by
    have := List.single_le_sum (l := s.freq.map fun e => e.count.toNat) (by simp) _ (List.mem_map_of_mem he)
    have := hs.sum
    omega
  refine ⟨by simpa [length_bumpCount] using hs.size, by simpa [map_sym_bumpCount] using hs.distinct, ?_, ?_, ?_⟩
  · intro e he
    obtain he | ⟨f, hf, rfl⟩ := mem_bumpCount he
    · exact hs.positive e he
    · simp [toNat_add_one (hroom f hf)]
  · intro e he
    obtain he | ⟨f, hf, rfl⟩ := mem_bumpCount he
    · exact hs.symbols e he
    · exact hs.symbols f hf
  · simp only [sum_bumpCount hold hroom, hs.sum, htot]

/-- COUNT of a new symbol keeps the frequency table's invariant (R100). -/
theorem freqOk_add (hsym : isSymbol sym = true) (hnew : hasSymbol sym s.freq = false)
    (hroom : s.freq.length < s.build.nMax) :
    ({ s with freq := s.freq ++ [{ sym := sym, count := 1#32 }], total := s.total + 1#32 } : State).FreqOk := by
  have hne : ∀ e ∈ s.freq, e.sym ≠ sym := by simpa [hasSymbol] using hnew
  refine ⟨by simpa using hroom, ?_, ?_, ?_, ?_⟩
  · simpa [List.nodup_append, hs.distinct] using hne
  · simpa [or_imp, forall_and] using hs.positive
  · simpa [or_imp, forall_and, hsym] using hs.symbols
  · simp [hs.sum, toNat_total_succ htotal]

end

/-- Every effect keeps the frequency table's invariant. -/
theorem freqOk_effect {i : Instr} {emits : Bool} {s u : State} (h : s.Effect i emits u) (hs : s.FreqOk) :
    u.FreqOk := by
  have tree {u : State} (ho : s.OnlyTree u) : u.FreqOk := freqOk_of_eq ho.build ho.freq ho.total hs
  cases h with
  | clear | ldbegin => exact freqOk_of_empty rfl rfl
  | bump sym _ htotal hold => exact freqOk_bump hs htotal hold
  | add sym _ htotal hsym hnew hroom => exact freqOk_add hs htotal hsym hnew hroom
  | heapinit _ => exact tree (onlyTree_heapInit s)
  | merge hp h => exact tree (onlyTree_mergeOnce hp h)
  | build ha h => exact tree (onlyTree_bodyBuild ha h)
  | unchanged | gentable | results | append | emit | ldent | ldend => exact freqOk_of_eq (s := s) rfl rfl rfl hs

theorem freqOk_resetOf (b : Build) : (State.resetOf b).FreqOk := freqOk_of_empty rfl rfl

/-- Settles O54: of all effects only COUNT's and the emptying ones touch the table. -/
theorem stepKeepsTheFrequencyTable : Obligations.StepKeepsTheFrequencyTable := fun s _ hs h =>
  step_keeps (P := State.FreqOk) (fun hf => freqOk_of_eq hf.build hf.freq hf.total)
    (fun _ => freqOk_resetOf s.build) freqOk_effect hs h

end Sys2Proof.Machine
end

section
/-! SUPPORT. The tree invariant: arena, heap, root and phase (R32, R35, R36, R39, R110-R115). -/

namespace Sys2Proof.Machine

/-! ## The arena -/

theorem childrenOf_append (ms ns : List Node) : childrenOf (ms ++ ns) = childrenOf ms ++ childrenOf ns := by
  simp [childrenOf]

@[simp] theorem childrenOf_leaves (freq : List FreqEntry) : childrenOf (freq.map FreqEntry.leaf) = [] := by
  simp [childrenOf, FreqEntry.leaf]

@[simp] theorem childrenOf_singleton_internal (w : Word) (l r : Index) :
    childrenOf [.internal w l r] = [l.toNat, r.toNat] := rfl

theorem internalOk_iff {nodes : List Node} {k : Nat} :
    internalOk nodes k = true ↔ ∃ w l r, nodes[k]? = some (.internal w l r) ∧ l.toNat < k ∧ r.toNat < k ∧ l ≠ r ∧
      w.toNat = weightAt nodes l + weightAt nodes r := by
  unfold internalOk
  split
  next w l r h => simp [h, and_assoc]
  next h => simp [h]
  next h => simp [h]

/-- A node already live keeps its weight when the arena grows. -/
theorem weightAt_append {nodes ms : List Node} {k : Index} (h : k.toNat < nodes.length) :
    weightAt (nodes ++ ms) k = weightAt nodes k := by
  simp [weightAt, List.getElem?_append_left h]

theorem internalOk_append {nodes ms : List Node} {k : Nat} (hk : k < nodes.length)
    (h : internalOk nodes k = true) : internalOk (nodes ++ ms) k = true := by
  obtain ⟨w, l, r, hn, hl, hr, hne, hw⟩ := internalOk_iff.mp h
  refine internalOk_iff.mpr ⟨w, l, r, by rw [List.getElem?_append_left hk, hn], hl, hr, hne, ?_⟩
  rw [weightAt_append (by omega), weightAt_append (by omega), hw]

/-- Every internal node of the arena has two children. -/
theorem length_childrenOf_internal {nodes : List Node} (h : ∀ n ∈ nodes, ∃ w l r, n = .internal w l r) :
    (childrenOf nodes).length = 2 * nodes.length := by
  induction nodes with
  | nil => rfl
  | cons n ns ih =>
    obtain ⟨w, l, r, rfl⟩ := h n List.mem_cons_self
    have := ih fun m hm => h m (List.mem_cons_of_mem _ hm)
    rw [← List.singleton_append, childrenOf_append]
    simp [this]; omega

theorem perm_heapInsert {k : Index} {heap : List Index} (h : k ∉ heap) : (heapInsert k heap).Perm (k :: heap) := by
  induction heap with
  | nil => exact .refl _
  | cons j js ih =>
    obtain ⟨hj, hjs⟩ := List.ne_and_not_mem_of_not_mem_cons h
    simp only [heapInsert, hj, ↓reduceIte]
    split
    · exact .refl _
    · exact ((ih hjs).cons j).trans (.swap k j js)

/-! ## The forest between merges -/

namespace State.Forest

theorem freq_length_le {s : State} (h : s.Forest) : s.freq.length ≤ s.node.length := by
  simpa using congrArg List.length h.leaves

theorem lt_of_mem_heap {s : State} (h : s.Forest) {k : Index} (hk : k ∈ s.heap) : k.toNat < s.node.length := by
  have := h.owned.mem_iff.mp (List.mem_append_left _ (List.mem_map_of_mem hk))
  simpa using this

theorem nodup_heap {s : State} (h : s.Forest) : s.heap.Nodup :=
  h.rising.imp fun {j k} hjk => by rintro rfl; exact absurd hjk (lt_irrefl _)

/-- Each merge adds one node and takes one member out of the heap, so their numbers make up twice NSYM (R39). -/
theorem heap_length_add {s : State} (h : s.Forest) : s.heap.length + s.node.length = 2 * s.freq.length := by
  have hle := h.freq_length_le
  have hsplit : childrenOf s.node = childrenOf (s.node.drop s.freq.length) := by
    conv_lhs => rw [← List.take_append_drop s.freq.length s.node, h.leaves, childrenOf_append]
    simp
  have hint : ∀ n ∈ s.node.drop s.freq.length, ∃ w l r, n = .internal w l r := fun n hn => by
    obtain ⟨i, hi, rfl⟩ := List.getElem_of_mem hn
    rw [List.length_drop] at hi
    obtain ⟨w, l, r, hk, -⟩ := internalOk_iff.mp (h.internal (s.freq.length + i) (by omega) (by omega))
    rw [List.getElem?_eq_getElem (by omega), Option.some.injEq] at hk
    exact ⟨w, l, r, by simpa using hk⟩
  have hlen := h.owned.length_eq
  rw [List.length_append, List.length_map, List.length_range, hsplit, length_childrenOf_internal hint,
    List.length_drop] at hlen
  omega

end State.Forest

theorem forest_of_eq {s t : State} (hf : t.freq = s.freq) (ht : t.total = s.total) (hn : t.node = s.node)
    (hh : t.heap = s.heap) (h : s.Forest) : t.Forest := by
  obtain ⟨h1, h2, h3, h4, h5⟩ := h
  constructor <;> simpa only [hf, ht, hn, hh]

/-! ## HEAPINIT (R110) -/

@[simp] theorem heapInit_node (s : State) : (heapInit s).node = s.freq.map FreqEntry.leaf := by
  unfold heapInit; split <;> rfl

@[simp] theorem heapInit_heap (s : State) : (heapInit s).heap = fullHeap s.freq.length := by
  unfold heapInit; split <;> rfl

theorem heapInit_phase (s : State) : (heapInit s).phase = if s.freq.length ≤ 1 then .tree else .merge := by
  unfold heapInit
  split
  next h => simp [h]
  next h => simp [h]
  next h0 h1 =>
    have : ¬ s.freq.length ≤ 1 := fun h => by
      obtain h | h := Nat.le_one_iff_eq_zero_or_eq_one.mp h
      · exact h0 h
      · exact h1 h
    simp [this]

theorem heapInit_root (s : State) : (heapInit s).root =
    if s.freq.length = 0 then none else if s.freq.length = 1 then some 0#16 else s.root := by
  unfold heapInit
  split <;> simp_all

theorem toNat_ofNat_of_lt {k : Nat} (h : k < 2 ^ 16) : (BitVec.ofNat 16 k).toNat = k := by
  simpa using Nat.mod_eq_of_lt h

theorem map_toNat_fullHeap {n : Nat} (h : n ≤ 2 ^ 16) : (fullHeap n).map BitVec.toNat = List.range n := by
  rw [fullHeap, List.map_map]
  exact (List.map_congr_left fun k hk => toNat_ofNat_of_lt (by simp at hk; omega)).trans (List.map_id _)

/-- Leaf `k` weighs what entry `k` of the frequency table counts. -/
theorem weightAt_leaves {freq : List FreqEntry} {k : Nat} (hk : k < freq.length) (h : k < 2 ^ 16) :
    weightAt (freq.map FreqEntry.leaf) (BitVec.ofNat 16 k) = freq[k].count.toNat := by
  simp [weightAt, toNat_ofNat_of_lt h, hk, FreqEntry.leaf, Node.weight]

theorem sum_weights_leaves {freq : List FreqEntry} (h : freq.length ≤ 2 ^ 16) :
    ((fullHeap freq.length).map (weightAt (freq.map FreqEntry.leaf))).sum =
      (freq.map fun e => e.count.toNat).sum := by
  congr 1
  apply List.ext_getElem (by simp [fullHeap])
  intro k hk _
  have hk : k < freq.length := by simpa [fullHeap] using hk
  simpa [fullHeap] using weightAt_leaves hk (by omega)

/-- HEAPINIT leaves the forest of single leaves (R110). -/
theorem forest_heapInit {s : State} (hs : s.FreqOk) (hn : s.freq.length ≤ 2 ^ 16) : (heapInit s).Forest := by
  have ho := onlyTree_heapInit s
  constructor
  · simp [ho.freq]
  · intro k h1 h2
    simp [ho.freq] at h1 h2; omega
  · rw [heapInit_heap, ← List.pairwise_map (f := BitVec.toNat) (R := (· < ·)), map_toNat_fullHeap hn]
    exact List.pairwise_lt_range
  · simp [map_toNat_fullHeap hn]
  · simp [ho.total, sum_weights_leaves hn, hs.sum]

/-! ## MERGE (R112) -/

@[simp] theorem joinNodes_node (x y : Index) (rest : List Index) (s : State) : (joinNodes x y rest s).node =
    s.node ++ [.internal (BitVec.ofNat 32 (weightAt s.node x + weightAt s.node y)) x y] := by
  simp only [joinNodes]; split <;> rfl

@[simp] theorem joinNodes_heap (x y : Index) (rest : List Index) (s : State) :
    (joinNodes x y rest s).heap = heapInsert (BitVec.ofNat 16 s.node.length) rest := by
  simp only [joinNodes]; split <;> rfl

theorem joinNodes_of_last {x y : Index} {rest : List Index} {s : State}
    (h : (joinNodes x y rest s).heap.length = 1) :
    (joinNodes x y rest s).root = some (BitVec.ofNat 16 s.node.length) ∧
      (joinNodes x y rest s).phase = .tree := by
  rw [joinNodes_heap] at h
  simp [joinNodes, h]

theorem joinNodes_of_not_last {x y : Index} {rest : List Index} {s : State}
    (h : (joinNodes x y rest s).heap.length ≠ 1) :
    (joinNodes x y rest s).root = s.root ∧ (joinNodes x y rest s).phase = s.phase := by
  rw [joinNodes_heap] at h
  simp [joinNodes, h]

/-- The two members a merge extracts, and the rest of the heap, are the heap. -/
theorem mergeOnce_perm {s t : State} (hr : s.heap.Pairwise fun j k => j.toNat < k.toNat) (h : mergeOnce s = some t) :
    ∃ x y rest, s.heap.Perm (x :: y :: rest) ∧ (rest.Pairwise fun j k => j.toNat < k.toNat) ∧
      t = joinNodes x y rest s := by
  obtain ⟨x, y, rest, rest', -, hx, hy, rfl⟩ := mergeOnce_some h
  obtain ⟨hxm, rfl⟩ := extractMin_some hx
  obtain ⟨hym, rfl⟩ := extractMin_some hy
  exact ⟨x, y, _, (List.perm_cons_erase hxm).trans ((List.perm_cons_erase hym).cons x),
    extractMin_rising (extractMin_rising hr hx) hy, rfl⟩

section
variable {s : State} {x y : Index} {rest : List Index} (hf : s.Forest) (hp : s.heap.Perm (x :: y :: rest))
include hf hp

/-- The two extracted nodes weigh no more than TOTAL together (R113). -/
theorem weight_pair_le : weightAt s.node x + weightAt s.node y ≤ s.total.toNat := by
  have h := (hp.map (weightAt s.node)).sum_eq
  rw [hf.weight] at h
  simp only [List.map_cons, List.sum_cons] at h
  omega

theorem weight_pair_toNat : (BitVec.ofNat 32 (weightAt s.node x + weightAt s.node y)).toNat =
    weightAt s.node x + weightAt s.node y := by
  have := weight_pair_le hf hp
  simp; omega

theorem pair_live : x.toNat < s.node.length ∧ y.toNat < s.node.length ∧ ∀ k ∈ rest, k.toNat < s.node.length :=
  ⟨hf.lt_of_mem_heap (hp.mem_iff.mpr (by simp)), hf.lt_of_mem_heap (hp.mem_iff.mpr (by simp)),
   fun k hk => hf.lt_of_mem_heap (hp.mem_iff.mpr (by simp [hk]))⟩

/-- The joined node is new, so it is added to the heap. -/
theorem perm_joinNodes_heap (hn : s.node.length < 2 ^ 16) :
    (joinNodes x y rest s).heap.Perm (BitVec.ofNat 16 s.node.length :: rest) := by
  obtain ⟨-, -, hrest⟩ := pair_live hf hp
  rw [joinNodes_heap]
  refine perm_heapInsert fun hmem => ?_
  have := hrest _ hmem
  rw [toNat_ofNat_of_lt hn] at this
  omega

/-- After a merge the extracted nodes are children and the new node is a member, so each node is still owned once
(R115). -/
theorem owned_joinNodes (hn : s.node.length < 2 ^ 16) :
    ((joinNodes x y rest s).heap.map BitVec.toNat ++ childrenOf (joinNodes x y rest s).node).Perm
      (List.range (joinNodes x y rest s).node.length) := by
  have hold : (rest.map BitVec.toNat ++ (childrenOf s.node ++ [x.toNat, y.toNat])).Perm
      (List.range s.node.length) := by
    refine List.Perm.trans ?_ (((hp.map BitVec.toNat).append_right _).symm.trans hf.owned)
    rw [← List.append_assoc]
    exact List.perm_append_comm
  rw [joinNodes_node, childrenOf_append, childrenOf_singleton_internal, List.length_append, List.length_singleton,
    List.range_succ]
  refine (((perm_joinNodes_heap hf hp hn).map BitVec.toNat).append_right _).trans ?_
  rw [List.map_cons, toNat_ofNat_of_lt hn]
  exact (hold.cons _).trans (List.perm_append_singleton _ _).symm

/-- A merge keeps the sum of the weights in the heap (R113). -/
theorem weight_joinNodes (hn : s.node.length < 2 ^ 16) :
    ((joinNodes x y rest s).heap.map (weightAt (joinNodes x y rest s).node)).sum = s.total.toNat := by
  obtain ⟨-, -, hrest⟩ := pair_live hf hp
  have hkeep : rest.map (weightAt (joinNodes x y rest s).node) = rest.map (weightAt s.node) :=
    List.map_congr_left fun k hk => by rw [joinNodes_node, weightAt_append (hrest k hk)]
  have hnew : weightAt (joinNodes x y rest s).node (BitVec.ofNat 16 s.node.length) =
      weightAt s.node x + weightAt s.node y := by
    rw [← weight_pair_toNat hf hp]
    simp [weightAt, toNat_ofNat_of_lt hn, Node.weight]
  rw [((perm_joinNodes_heap hf hp hn).map _).sum_eq, List.map_cons, List.sum_cons, hkeep, hnew, ← hf.weight,
    (hp.map (weightAt s.node)).sum_eq]
  simp [Nat.add_assoc]

/-- A merge keeps the forest (R112, R113). -/
theorem forest_joinNodes (hr : rest.Pairwise fun j k => j.toNat < k.toNat) (hphase : s.phase = .merge)
    (hn : s.node.length < 2 ^ 16) : (joinNodes x y rest s).Forest := by
  obtain ⟨hx, hy, -⟩ := pair_live hf hp
  have hxy : x ≠ y := by
    have := hp.nodup_iff.mp hf.nodup_heap
    simp only [List.nodup_cons, List.mem_cons, not_or] at this
    exact this.1.1
  have ho := onlyTree_joinNodes x y rest hphase
  constructor
  · rw [ho.freq, joinNodes_node, List.take_append_of_le_length hf.freq_length_le, hf.leaves]
  · intro k h1 h2
    rw [ho.freq] at h1
    rw [joinNodes_node] at h2 ⊢
    by_cases hlt : k < s.node.length
    · exact internalOk_append hlt (hf.internal k h1 hlt)
    · obtain rfl : k = s.node.length := by simp at h2; omega
      exact internalOk_iff.mpr ⟨_, x, y, List.getElem?_concat_length, hx, hy, hxy,
        by rw [weight_pair_toNat hf hp, weightAt_append hx, weightAt_append hy]⟩
  · rw [joinNodes_heap]
    exact heapInsert_rising hr
  · exact owned_joinNodes hf hp hn
  · rw [weight_joinNodes hf hp hn, ho.total]

end

/-! ## The tree in each phase (R39) -/

theorem treeOk_count {s : State} (hp : s.phase = .count) :
    s.TreeOk ↔ s.node = [] ∧ s.heap = [] ∧ s.root = none ∧ s.code = [] := by
  simp [State.TreeOk, hp]

theorem treeOk_merge {s : State} (hp : s.phase = .merge) :
    s.TreeOk ↔ s.Forest ∧ 2 ≤ s.heap.length ∧ s.root = none ∧ s.code = [] := by
  simp [State.TreeOk, hp]

theorem treeOk_tree {s : State} (hp : s.phase = .tree) : s.TreeOk ↔ s.TreeDone ∧ s.code = [] := by
  simp [State.TreeOk, hp]

theorem treeOk_table {s : State} (hp : s.phase = .table) :
    s.TreeOk ↔ s.TreeDone ∧ s.code.length = s.freq.length ∨ s.NoTree := by
  simp [State.TreeOk, hp]

theorem treeOk_load {s : State} (hp : s.phase = .load) : s.TreeOk ↔ s.NoTree := by
  simp [State.TreeOk, hp]

theorem treeDone_of_eq {s t : State} (hf : t.freq = s.freq) (ht : t.total = s.total) (hn : t.node = s.node)
    (hh : t.heap = s.heap) (hr : t.root = s.root) (h : s.TreeDone) : t.TreeDone := by
  refine ⟨forest_of_eq hf ht hn hh h.forest, ?_, ?_⟩
  · simpa only [hf, hn, hh, hr] using h.empty
  · simpa only [hf, hn, hh, hr] using h.root

theorem treeInv_of_sameTables {s t : State} (h : s.SameTables t) (hs : s.TreeInv) : t.TreeInv := by
  obtain ⟨hb, hf, ht⟩ := hs
  refine ⟨h.build ▸ hb, freqOk_of_eq h.build h.freq h.total hf, ?_⟩
  have hforest : s.Forest → t.Forest := forest_of_eq h.freq h.total h.node h.heap
  have hdone : s.TreeDone → t.TreeDone := treeDone_of_eq h.freq h.total h.node h.heap h.root
  have hno : s.NoTree → t.NoTree := by simp only [State.NoTree, h.freq, h.total, h.node, h.heap, h.root, imp_self]
  cases hp : s.phase with
  | count =>
    rw [treeOk_count (h.phase.trans hp), h.node, h.heap, h.root, h.code]
    exact (treeOk_count hp).mp ht
  | merge =>
    rw [treeOk_merge (h.phase.trans hp), h.heap, h.root, h.code]
    exact ((treeOk_merge hp).mp ht).imp_left hforest
  | tree =>
    rw [treeOk_tree (h.phase.trans hp), h.code]
    exact ((treeOk_tree hp).mp ht).imp_left hdone
  | table =>
    rw [treeOk_table (h.phase.trans hp), h.code, h.freq]
    exact ((treeOk_table hp).mp ht).imp (.imp_left hdone) hno
  | load => exact (treeOk_load (h.phase.trans hp)).mpr (hno ((treeOk_load hp).mp ht))

/-- A legal build has at most 32768 symbols (R7). -/
theorem nMax_le {b : Build} (h : b.WellFormed = true) : 2 ≤ b.nMax ∧ b.nMax ≤ 32768 := by
  simp only [Build.WellFormed, Bool.and_eq_true, decide_eq_true_eq] at h
  exact h.1

theorem State.TreeInv.freq_length_le {s : State} (h : s.TreeInv) : s.freq.length ≤ 32768 :=
  h.freq.size.trans (nMax_le h.build).2

/-- A forest with one member in the heap is a completed tree when ROOT is that member (R36, R115). -/
theorem treeDone_of_single {s : State} {k : Index} (hf : s.Forest) (hh : s.heap = [k]) (hr : s.root = some k)
    (hk : k.toNat = s.node.length - 1) : s.TreeDone := by
  have hlen := hf.heap_length_add
  have hlt := hf.lt_of_mem_heap (k := k) (by simp [hh])
  simp only [hh, List.length_singleton] at hlen
  refine ⟨hf, fun h => ?_, fun _ => ⟨k, hr, hh, by omega, hk⟩⟩
  simp only [h, List.length_nil] at hlen
  omega

theorem treeInv_heapInit {s : State} (hs : s.TreeInv) (hp : s.phase = .count) : (heapInit s).TreeInv := by
  have ho := onlyTree_heapInit s
  have hn := hs.freq_length_le
  have hforest := forest_heapInit hs.freq (by omega)
  obtain ⟨-, -, hroot, hcode⟩ := (treeOk_count hp).mp hs.tree
  refine ⟨ho.build ▸ hs.build, freqOk_of_eq ho.build ho.freq ho.total hs.freq, ?_⟩
  have hph := heapInit_phase s
  have hrt := heapInit_root s
  by_cases hle : s.freq.length ≤ 1
  · rw [if_pos hle] at hph
    refine (treeOk_tree hph).mpr ⟨?_, ho.code.trans hcode⟩
    obtain h0 | h1 := Nat.le_one_iff_eq_zero_or_eq_one.mp hle
    · have hfreq : s.freq = [] := List.eq_nil_of_length_eq_zero h0
      exact ⟨hforest, fun _ => ⟨by simp [hfreq], by simp [hfreq, fullHeap], by simpa [h0] using hrt⟩,
        fun h => absurd (ho.freq.trans hfreq) h⟩
    · exact treeDone_of_single (k := 0#16) hforest (by simp [h1, fullHeap]) (by simpa [h1] using hrt) (by simp [h1])
  · rw [if_neg hle] at hph
    refine (treeOk_merge hph).mpr ⟨hforest, by simp [fullHeap]; omega, ?_, ho.code.trans hcode⟩
    rw [hrt, if_neg (by omega), if_neg (by omega), hroot]

theorem treeInv_mergeOnce {s t : State} (hs : s.TreeInv) (hp : s.phase = .merge) (h : mergeOnce s = some t) :
    t.TreeInv := by
  have ho := onlyTree_mergeOnce hp h
  refine ⟨ho.build ▸ hs.build, freqOk_of_eq ho.build ho.freq ho.total hs.freq, ?_⟩
  obtain ⟨hf, hheap, hroot, hcode⟩ := (treeOk_merge hp).mp hs.tree
  have hn := hs.freq_length_le
  have hlen := hf.heap_length_add
  have hlt : s.node.length < 2 ^ 16 := by omega
  obtain ⟨x, y, rest, hperm, hrest, rfl⟩ := mergeOnce_perm hf.rising h
  have hforest := forest_joinNodes hf hperm hrest hp hlt
  have hnew := perm_joinNodes_heap hf hperm hlt
  have hcode' := ho.code.trans hcode
  by_cases hone : (joinNodes x y rest s).heap.length = 1
  · obtain ⟨hr, hph⟩ := joinNodes_of_last hone
    refine (treeOk_tree hph).mpr ⟨treeDone_of_single hforest ?_ hr ?_, hcode'⟩
    · obtain rfl : rest = [] := List.eq_nil_of_length_eq_zero (Nat.succ.inj (hnew.length_eq.symm.trans hone))
      exact List.perm_singleton.mp hnew
    · simp [toNat_ofNat_of_lt hlt]
  · obtain ⟨hr, hph⟩ := joinNodes_of_not_last hone
    refine (treeOk_merge (hph.trans hp)).mpr ⟨hforest, ?_, hr.trans hroot, hcode'⟩
    have := hnew.length_eq
    simp only [List.length_cons] at this
    omega

theorem treeInv_bodyBuild {s t : State} (hs : s.TreeInv) (ha : accepts s.phase .build = true)
    (h : (bodyBuild s).left = some t) : t.TreeInv :=
  bodyBuild_keeps (P := State.TreeInv) ha (treeInv_heapInit hs) (fun _ => hs)
    (fun hp hm hu => treeInv_mergeOnce hu hp hm) h

/-! ## GENTABLE's table has one entry for each symbol (R130) -/

theorem entryOfLeaf_some {nodes : List Node} {ps : List Path} {i : Nat} {e : CodeEntry}
    (h : entryOfLeaf nodes ps i = some e) : ∃ w p, nodes[i]? = some (.leaf w e.sym) ∧ p ∈ ps ∧ p.leaf.toNat = i ∧
      e.word = { len := BitVec.ofNat 7 p.len, val := BitVec.ofNat 64 p.val } := by
  unfold entryOfLeaf at h
  split at h
  next w sym p hn hp =>
    obtain rfl := Option.some.inj h
    exact ⟨w, p, hn, List.mem_of_find?_eq_some hp, by simpa using List.find?_some hp, rfl⟩
  next => simp at h

/-- The entries made are those of the leaves listed, in their order. -/
theorem codeEntries_some {nodes : List Node} {ps : List Path} {is : List Nat} {es : List CodeEntry}
    (h : codeEntries nodes ps is = some es) : List.Forall₂ (fun i e => entryOfLeaf nodes ps i = some e) is es := by
  induction is generalizing es with
  | nil =>
    obtain rfl := Option.some.inj h
    exact .nil
  | cons i is ih =>
    simp only [codeEntries] at h
    split at h
    next e es' he hes =>
      obtain rfl := Option.some.inj h
      exact .cons he (ih hes)
    next => simp at h

theorem length_of_gentableMakes {s : State} {es : List CodeEntry} (h : s.GentableMakes es) :
    es.length = s.freq.length := by
  obtain ⟨hf, rfl⟩ | ⟨e, hf, rfl⟩ | ⟨-, ps, -, -, hes⟩ := h
  · simp [hf]
  · simp [hf]
  · simpa using (codeEntries_some hes).length_eq.symm

/-! ## Every step -/

/-- Every effect keeps the tree invariant. -/
theorem treeInv_effect {i : Instr} {emits : Bool} {s u : State} (h : s.Effect i emits u) (hs : s.TreeInv) :
    u.TreeInv := by
  have hfreq := freqOk_effect h hs.freq
  have frame {u : State} (hu : s.SameTables u) : u.TreeInv := treeInv_of_sameTables hu hs
  cases h with
  | unchanged _ => exact hs
  | clear => exact ⟨hs.build, hfreq, rfl, rfl, rfl, rfl⟩
  | bump _ hp | add _ hp =>
    exact ⟨hs.build, hfreq, (treeOk_count (by exact hp)).mpr ((treeOk_count hp).mp hs.tree)⟩
  | heapinit hp => exact treeInv_heapInit hs hp
  | merge hp h => exact treeInv_mergeOnce hs hp h
  | build ha h => exact treeInv_bodyBuild hs ha h
  | gentable es hp h =>
    obtain ⟨hdone, -⟩ := (treeOk_tree hp).mp hs.tree
    exact ⟨hs.build, hfreq, .inl ⟨treeDone_of_eq (s := s) rfl rfl rfl rfl rfl hdone, length_of_gentableMakes h⟩⟩
  | results a b c _ => exact frame (sameTables_setResults a b c s)
  | append | emit => exact frame ⟨rfl, rfl, rfl, rfl, rfl, rfl, rfl, rfl⟩
  | ldbegin => exact ⟨hs.build, hfreq, rfl, rfl, rfl, rfl, rfl⟩
  | ldent sym hp _ _ _ => exact ⟨hs.build, hfreq, (treeOk_load (by exact hp)).mpr ((treeOk_load hp).mp hs.tree)⟩
  | ldend hp => exact ⟨hs.build, hfreq, .inr ((treeOk_load hp).mp hs.tree)⟩

theorem treeInv_resetOf {b : Build} (hb : b.WellFormed = true) : (State.resetOf b).TreeInv :=
  ⟨hb, freqOk_resetOf b, rfl, rfl, rfl, rfl⟩

/-- Settles O56, by the effects of the commands: HEAPINIT makes the forest of leaves and each merge keeps it. -/
theorem stepKeepsTheTree : Obligations.StepKeepsTheTree := fun _ _ hs h =>
  step_keeps (P := State.TreeInv) treeInv_of_sameTables (fun hs => treeInv_resetOf hs.build) treeInv_effect hs h

end Sys2Proof.Machine
end

section
/-! SUPPORT. The code table's invariant (R33, R130, R131, R161). -/

namespace Sys2Proof.Machine

/-! ## Codewords and their bits (R79) -/

/-- The number a bit string spells, first bit the heaviest. -/
def bitsValue (bs : List Bool) : Nat := bs.foldl (fun v b => 2 * v + b.toNat) 0

@[simp] theorem bitsValue_nil : bitsValue [] = 0 := rfl

@[simp] theorem bitsValue_concat (bs : List Bool) (b : Bool) : bitsValue (bs ++ [b]) = 2 * bitsValue bs + b.toNat := by
  simp [bitsValue]

theorem bitsValue_lt (bs : List Bool) : bitsValue bs < 2 ^ bs.length := by
  induction bs using List.reverseRecOn with
  | nil => simp
  | append_singleton bs b ih =>
    have := Bool.toNat_le b
    simp only [bitsValue_concat, List.length_append, List.length_singleton, Nat.pow_succ]
    omega

/-- The bits of the number a string spells are the string. -/
theorem map_testBit_bitsValue (bs : List Bool) :
    ((List.range bs.length).reverse.map fun i => (bitsValue bs).testBit i) = bs := by
  induction bs using List.reverseRecOn with
  | nil => rfl
  | append_singleton bs b ih =>
    have h0 : (2 * bitsValue bs + b.toNat).testBit 0 = b := by
      cases b <;> simp [Nat.testBit_zero]
    have hs (i : Nat) : (2 * bitsValue bs + b.toNat).testBit (i + 1) = (bitsValue bs).testBit i := by
      rw [Nat.testBit_succ]
      congr 1
      have := Bool.toNat_le b
      omega
    rw [bitsValue_concat, List.length_append, List.length_singleton, List.range_succ_eq_map, List.reverse_cons,
      List.map_append, List.map_singleton, h0, ← List.map_reverse, List.map_map]
    simpa [Function.comp_def, hs] using ih

/-- The codeword of a bit string of at most 64 bits has that string as its bits (R79). -/
theorem bits_of_bitsValue {bs : List Bool} (h : bs.length ≤ 64) :
    Codeword.bits { len := BitVec.ofNat 7 bs.length, val := BitVec.ofNat 64 (bitsValue bs) } = bs := by
  have hlen : bs.length % 2 ^ 7 = bs.length := Nat.mod_eq_of_lt (by omega)
  conv_rhs => rw [← map_testBit_bitsValue bs]
  simp only [Codeword.bits, BitVec.toNat_ofNat, hlen]
  refine List.map_congr_left fun i hi => ?_
  have hi : i < bs.length := by simpa using hi
  simp [BitVec.getLsbD_ofNat]; omega

theorem valid_of_bitsValue {bs : List Bool} (h0 : bs ≠ []) (h : bs.length ≤ 64) :
    Codeword.valid { len := BitVec.ofNat 7 bs.length, val := BitVec.ofNat 64 (bitsValue bs) } = true := by
  have hlen : bs.length % 2 ^ 7 = bs.length := Nat.mod_eq_of_lt (by omega)
  have hpos := List.length_pos_of_ne_nil h0
  have hlt := bitsValue_lt bs
  have hle : 2 ^ bs.length ≤ 2 ^ 64 := Nat.pow_le_pow_right (by decide) h
  have hval : bitsValue bs % 2 ^ 64 = bitsValue bs := Nat.mod_eq_of_lt (by omega)
  simp only [Codeword.valid, Config.lMax, BitVec.toNat_ofNat, hlen, hval, Bool.and_eq_true, decide_eq_true_eq]
  exact ⟨⟨hpos, h⟩, hlt⟩

/-- The first bit below `val` may be read before the others. -/
theorem shift_add_bitsValue_cons (val : Nat) (b : Bool) (bs : List Bool) :
    val * 2 ^ (b :: bs).length + bitsValue (b :: bs) = (2 * val + b.toNat) * 2 ^ bs.length + bitsValue bs := by
  induction bs using List.reverseRecOn with
  | nil => simp [bitsValue]; ring
  | append_singleton bs c ih =>
    rw [← List.cons_append, bitsValue_concat, bitsValue_concat]
    simp only [List.length_append, List.length_singleton, Nat.pow_succ] at ih ⊢
    linarith

/-! ## The paths of the traversal (R130) -/

theorem walk_append (nodes : List Node) (k : Index) (bs cs : List Bool) :
    walk nodes k (bs ++ cs) = (walk nodes k bs).bind fun j => walk nodes j cs := by
  induction bs generalizing k with
  | nil => rfl
  | cons b bs ih =>
    simp only [List.cons_append, walk]
    split <;> simp [ih]

/-- Nothing lies below a leaf. -/
theorem walk_leaf {nodes : List Node} {k : Index} {bs : List Bool} (h : leafAt nodes k = true) (hbs : bs ≠ []) :
    walk nodes k bs = none := by
  obtain ⟨b, bs, rfl⟩ := List.exists_cons_of_ne_nil hbs
  simp only [leafAt] at h
  split at h
  next w sym hk => simp [walk, hk]
  · simp at h
  · simp at h

/-- A path of the traversal is a walk to its leaf, whose bits its length and value spell. -/
def Path.Spells (nodes : List Node) (k : Index) (len val : Nat) (p : Path) (bs : List Bool) : Prop :=
  walk nodes k bs = some p.leaf ∧ leafAt nodes p.leaf = true ∧ p.len = len + bs.length ∧
    p.val = val * 2 ^ bs.length + bitsValue bs

theorem spells_cons {nodes : List Node} {k l r : Index} {w : Word} {len val : Nat} {p : Path} {b : Bool}
    {bs : List Bool} (hk : nodes[k.toNat]? = some (.internal w l r))
    (h : p.Spells nodes (if b then r else l) (len + 1) (2 * val + b.toNat) bs) :
    p.Spells nodes k len val (b :: bs) := by
  obtain ⟨hw, hl, hlen, hval⟩ := h
  refine ⟨by simpa [walk, hk] using hw, hl, by simp [hlen]; omega, ?_⟩
  rw [shift_add_bitsValue_cons, hval]

theorem pathsFrom_spells {nodes : List Node} {fuel : Nat} {k : Index} {len val : Nat} {ps : List Path} {p : Path}
    (h : pathsFrom nodes fuel k len val = some ps) (hp : p ∈ ps) : ∃ bs, p.Spells nodes k len val bs := by
  induction fuel generalizing k len val ps with
  | zero => simp [pathsFrom] at h
  | succ fuel ih =>
    simp only [pathsFrom] at h
    split at h
    · simp at h
    next w sym hk =>
      obtain rfl : p = { leaf := k, len := len, val := val } := by
        rw [← Option.some.inj h] at hp
        simpa using hp
      exact ⟨[], rfl, by simp [leafAt, hk], rfl, by simp⟩
    next w l r hk =>
      split at h
      next ps qs hl hr =>
        rw [← Option.some.inj h, List.mem_append] at hp
        obtain hp | hp := hp
        · obtain ⟨bs, hbs⟩ := ih hl hp
          exact ⟨false :: bs, spells_cons hk hbs⟩
        · obtain ⟨bs, hbs⟩ := ih hr hp
          exact ⟨true :: bs, spells_cons hk hbs⟩
      next => simp at h

/-- A walk to a leaf that goes on from another one is the same walk. -/
theorem eq_of_walk_leaf {nodes : List Node} {r j k : Index} {bs cs : List Bool} (hb : walk nodes r bs = some j)
    (hj : leafAt nodes j = true) (hc : walk nodes r cs = some k) (h : bs <+: cs) : j = k := by
  obtain ⟨ds, rfl⟩ := h
  rw [walk_append, hb, Option.bind_some] at hc
  by_cases hds : ds = []
  · simpa [hds, walk] using hc
  · simp [walk_leaf hj hds] at hc

/-! ## The generated table (R130, R131) -/

theorem leafAt_of_internalOk {nodes : List Node} {k : Index} (h : internalOk nodes k.toNat = true) :
    leafAt nodes k = false := by
  obtain ⟨w, l, r, hk, -⟩ := internalOk_iff.mp h
  simp [leafAt, hk]

/-- The root of a tree of two or more leaves is an internal node (R36, R115). -/
theorem leafAt_root {s : State} {r : Index} (hs : s.TreeDone) (h2 : 2 ≤ s.freq.length) (hr : s.root = some r) :
    leafAt s.node r = false := by
  obtain ⟨k, hk, -, hlen, hlast⟩ := hs.root (List.length_pos_iff.mp (by omega))
  obtain rfl : k = r := Option.some.inj (hk.symm.trans hr)
  exact leafAt_of_internalOk (hs.forest.internal _ (by omega) (by omega))

/-- Leaf `i` of a forest holds the symbol of entry `i` of the frequency table (R110). -/
theorem sym_of_leaf {s : State} (hs : s.Forest) {i : Nat} {w : Word} {sym : Symbol} (hi : i < s.freq.length)
    (h : s.node[i]? = some (.leaf w sym)) : s.freq[i].sym = sym := by
  rw [← List.getElem?_take_of_lt hi, hs.leaves] at h
  simp [hi, FreqEntry.leaf] at h
  exact h.2

/-- What GENTABLE's entry for leaf `i` is: the leaf's symbol, with a valid codeword that leads from the root to the
leaf (R130). -/
theorem entryOfLeaf_spec {s : State} {ps : List Path} {i : Nat} {e : CodeEntry} (hs : s.TreeDone)
    (h2 : 2 ≤ s.freq.length) (hps : rootPaths s = some ps) (hlong : tooLong ps = false) (hi : i < s.freq.length)
    (he : entryOfLeaf s.node ps i = some e) : ∃ r k, s.root = some r ∧ walk s.node r e.word.bits = some k ∧
      leafAt s.node k = true ∧ k.toNat = i ∧ e.word.valid = true ∧ e.sym = s.freq[i].sym := by
  obtain ⟨w, p, hnode, hp, hpi, hword⟩ := entryOfLeaf_some he
  unfold rootPaths at hps
  split at hps
  next r hr =>
    obtain ⟨bs, hwalk, hleaf, hlen, hval⟩ := pathsFrom_spells hps hp
    have hle : bs.length ≤ 64 := by
      have hshort : ∀ p ∈ ps, p.len ≤ Config.lMax := by simpa [tooLong] using hlong
      have : p.len ≤ 64 := hshort p hp
      omega
    have hne : bs ≠ [] := by
      rintro rfl
      obtain rfl : r = p.leaf := Option.some.inj hwalk
      simp [leafAt_root hs h2 hr] at hleaf
    rw [Nat.zero_add] at hlen
    rw [Nat.zero_mul, Nat.zero_add] at hval
    rw [hlen, hval] at hword
    refine ⟨r, p.leaf, hr, ?_, hleaf, hpi, ?_, (sym_of_leaf hs.forest hi hnode).symm⟩
    · rw [hword, bits_of_bitsValue hle, hwalk]
    · rw [hword, valid_of_bitsValue hne hle]
  next => simp at hps

theorem entryOfLeaf_of_codeEntries {nodes : List Node} {ps : List Path} {n : Nat} {es : List CodeEntry}
    (h : codeEntries nodes ps (List.range n) = some es) {i : Nat} (hi : i < es.length) :
    entryOfLeaf nodes ps i = some es[i] := by
  have hall := codeEntries_some h
  have hn : i < (List.range n).length := hall.length_eq ▸ hi
  simpa using hall.get hn hi

theorem prefixFree_singleton (e : CodeEntry) : PrefixFree [e] := List.pairwise_singleton _ _

/-- A table free of codewords that begin another one holds no codeword twice. -/
theorem nodup_word_of_prefixFree {es : List CodeEntry} (h : PrefixFree es) : (es.map CodeEntry.word).Nodup := by
  refine List.pairwise_map.mpr (List.Pairwise.imp ?_ h)
  rintro e f ⟨hef, -⟩ heq
  exact hef (heq ▸ List.prefix_rfl)

/-- The table GENTABLE makes has the symbols of the frequency table in their order, valid codewords, and none that
begins another (R130, R131). -/
theorem gentableMakes_spec {s : State} {es : List CodeEntry} (hs : s.TreeDone) (h : s.GentableMakes es) :
    es.map CodeEntry.sym = s.freq.map FreqEntry.sym ∧ (∀ e ∈ es, e.word.valid = true) ∧ PrefixFree es := by
  have hlen := length_of_gentableMakes h
  obtain ⟨hf, rfl⟩ | ⟨e, hf, rfl⟩ | ⟨h2, ps, hps, hlong, hes⟩ := h
  · exact ⟨by simp [hf], by simp, .nil⟩
  · exact ⟨by simp [hf], by simp [Codeword.valid, Config.lMax], prefixFree_singleton _⟩
  · have spec (i : Nat) (hi : i < es.length) :=
      entryOfLeaf_spec hs h2 hps hlong (hlen ▸ hi) (entryOfLeaf_of_codeEntries hes hi)
    refine ⟨List.ext_getElem (by simpa using hlen) fun i hi _ => ?_, fun e he => ?_,
      List.pairwise_iff_getElem.mpr fun i j hi hj hij => ?_⟩
    · rw [List.length_map] at hi
      obtain ⟨-, -, -, -, -, -, -, hsym⟩ := spec i hi
      simpa using hsym
    · obtain ⟨i, hi, rfl⟩ := List.getElem_of_mem he
      obtain ⟨-, -, -, -, -, -, hvalid, -⟩ := spec i hi
      exact hvalid
    · obtain ⟨r, k, hr, hwalk, hleaf, hk, -, -⟩ := spec i hi
      obtain ⟨r', k', hr', hwalk', hleaf', hk', -, -⟩ := spec j hj
      obtain rfl : r = r' := Option.some.inj (hr.symm.trans hr')
      have hne : k ≠ k' := by rintro rfl; omega
      exact ⟨fun hp => hne (eq_of_walk_leaf hwalk hleaf hwalk' hp),
        fun hp => hne (eq_of_walk_leaf hwalk' hleaf' hwalk hp).symm⟩

/-! ## Every step -/

theorem codeOk_empty {s : State} (hc : s.code = []) (hp : s.phase ≠ .table) : s.CodeOk := by
  constructor <;> simp [hc, hp]

theorem codeOk_of_sameTables {s t : State} (h : s.SameTables t) (hs : s.CodeOk) : t.CodeOk := by
  obtain ⟨h1, h2, h3, h4, h5, h6⟩ := hs
  constructor <;> simpa only [h.code, h.build, h.phase, h.freq]

theorem codeOk_gentable {s : State} {es : List CodeEntry} (hs : s.TreeInv) (hp : s.phase = .tree)
    (h : s.GentableMakes es) : ({ s with code := es, acc := .empty, phase := .table } : State).CodeOk := by
  obtain ⟨hdone, -⟩ := (treeOk_tree hp).mp hs.tree
  obtain ⟨hsyms, hvalid, hfree⟩ := gentableMakes_spec hdone h
  refine ⟨(length_of_gentableMakes h).trans_le hs.freq.size, fun e he => ?_, hvalid, hsyms ▸ hs.freq.distinct,
    nodup_word_of_prefixFree hfree, fun _ _ => ⟨hsyms, hfree⟩⟩
  have hmem : e.sym ∈ s.freq.map FreqEntry.sym := hsyms ▸ List.mem_map_of_mem he
  obtain ⟨f, hf, hfe⟩ := List.mem_map.mp hmem
  exact hfe ▸ hs.freq.symbols f hf

/-- What R161 has LDENT check of its entry. -/
theorem badEntry_eq_false {sym : Symbol} {s : State} (h : badEntry sym s = false) :
    s.argReserved = 0#25 ∧ s.argWord.valid = true ∧ (∀ e ∈ s.code, e.sym ≠ sym) ∧
      ∀ e ∈ s.code, e.word ≠ s.argWord := by
  simp only [badEntry, State.codeOf, State.entryOf, Bool.or_eq_false_iff, bne_eq_false_iff_eq, Bool.not_eq_false',
    Option.isSome_eq_false_iff, Option.isNone_iff_eq_none, List.find?_eq_none, beq_iff_eq] at h
  obtain ⟨⟨⟨hres, hvalid⟩, hsym⟩, hword⟩ := h
  exact ⟨hres, hvalid, hsym, hword⟩

theorem codeOk_ldent {s : State} {sym : Symbol} (hs : s.CodeOk) (hp : s.phase = .load) (hsym : isSymbol sym = true)
    (hbad : badEntry sym s = false) (hroom : s.code.length < s.build.nMax) :
    ({ s with code := s.code ++ [{ sym := sym, word := s.argWord }] } : State).CodeOk := by
  obtain ⟨-, hvalid, hnew, hneww⟩ := badEntry_eq_false hbad
  refine ⟨by simpa using hroom, ?_, ?_, ?_, ?_, fun h => by simp [hp] at h⟩
  · simpa [or_imp, forall_and, hsym] using hs.symbols
  · simpa [or_imp, forall_and, hvalid] using hs.valid
  · simpa [List.nodup_append, hs.distinct] using hnew
  · simpa [List.nodup_append, hs.codewords] using hneww

/-- The tree commands leave the code table alone, outside P_TABLE. -/
theorem codeOk_of_onlyTree {s u : State} (h : s.OnlyTree u) (hs : s.CodeOk) : u.CodeOk := by
  have hp : u.phase ≠ .table := by obtain h | h := h.phase <;> simp [h]
  exact ⟨by simpa only [h.code, h.build] using hs.size, by simpa only [h.code] using hs.symbols,
    by simpa only [h.code] using hs.valid, by simpa only [h.code] using hs.distinct,
    by simpa only [h.code] using hs.codewords, fun ht => absurd ht hp⟩

/-- Every effect keeps the code table's invariant, in a state of the tree invariant. -/
theorem codeOk_effect {i : Instr} {emits : Bool} {s u : State} (h : s.Effect i emits u) (ht : s.TreeInv)
    (hs : s.CodeOk) : u.CodeOk := by
  have frame {u : State} (hu : s.SameTables u) : u.CodeOk := codeOk_of_sameTables hu hs
  cases h with
  | unchanged _ => exact hs
  | clear => exact codeOk_empty rfl (by simp)
  | bump _ hp | add _ hp =>
    obtain ⟨-, -, -, hcode⟩ := (treeOk_count hp).mp ht.tree
    exact codeOk_empty hcode (by simp [hp])
  | heapinit _ => exact codeOk_of_onlyTree (onlyTree_heapInit s) hs
  | merge hp h => exact codeOk_of_onlyTree (onlyTree_mergeOnce hp h) hs
  | build ha h => exact codeOk_of_onlyTree (onlyTree_bodyBuild ha h) hs
  | gentable es hp h => exact codeOk_gentable ht hp h
  | results a b c _ => exact frame (sameTables_setResults a b c s)
  | append | emit => exact frame ⟨rfl, rfl, rfl, rfl, rfl, rfl, rfl, rfl⟩
  | ldbegin => exact codeOk_empty rfl (by simp)
  | ldent sym hp hsym hbad hroom => exact codeOk_ldent hs hp hsym hbad hroom
  | ldend hp =>
    obtain ⟨hfreq, -⟩ := (treeOk_load hp).mp ht.tree
    exact ⟨hs.size, hs.symbols, hs.valid, hs.distinct, hs.codewords, fun _ hne => absurd hfreq hne⟩

theorem codeOk_resetOf (b : Build) : (State.resetOf b).CodeOk := codeOk_empty rfl (by simp [State.resetOf])

/-- The tree invariant and the code table's invariant are kept together. -/
theorem step_keeps_treeInv_codeOk {s t : State} (ht : s.TreeInv) (hc : s.CodeOk) (h : step s = .next t) :
    t.TreeInv ∧ t.CodeOk :=
  step_keeps (P := fun s => s.TreeInv ∧ s.CodeOk)
    (fun hf hs => ⟨treeInv_of_sameTables hf hs.1, codeOk_of_sameTables hf hs.2⟩)
    (fun hs => ⟨treeInv_resetOf hs.1.build, codeOk_resetOf s.build⟩)
    (fun hu hs => ⟨treeInv_effect hu hs.1, codeOk_effect hu hs.1 hs.2⟩) ⟨ht, hc⟩ h

end Sys2Proof.Machine
end

section
/-! SUPPORT. The invariants of the accumulator, the latch, SYMV and PENDING (R24, R34, R37, R38), and the whole
invariant. -/

namespace Sys2Proof.Machine

/-! ## The accumulator (R34) -/

theorem accOk_of_eq {s t : State} (ha : t.acc = s.acc) (hp : t.phase = s.phase) (h : s.AccOk) : t.AccOk := by
  obtain ⟨h1, h2, h3⟩ := h
  constructor <;> simpa only [ha, hp]

theorem accOk_of_empty {s : State} (h : s.acc = .empty) : s.AccOk := by
  constructor <;> simp [h, Codeword.empty]

/-- The tree commands run outside P_TABLE, where the accumulator is empty. -/
theorem accOk_of_onlyTree {s u : State} (h : s.OnlyTree u) (hp : s.phase ≠ .table) (hs : s.AccOk) : u.AccOk :=
  accOk_of_empty (h.acc.trans (hs.phase hp))

/-- The value of an accumulator with one more bit, where it has room for it (R13). -/
theorem toNat_append_val {a : Codeword} {b : Bool} (hl : a.len.toNat < 64) (hv : a.val.toNat < 2 ^ a.len.toNat) :
    (a.append b).val.toNat = 2 * a.val.toNat + b.toNat := by
  have hle : 2 ^ a.len.toNat ≤ 2 ^ 63 := Nat.pow_le_pow_right (by decide) (by omega)
  have hb := Bool.toNat_le b
  have hshift : (a.val <<< 1).toNat = a.val.toNat <<< 1 := by
    rw [BitVec.toNat_shiftLeft, Nat.mod_eq_of_lt]
    rw [Nat.shiftLeft_eq]; omega
  have hbit : ((BitVec.ofBool b).setWidth 64).toNat = b.toNat := by cases b <;> rfl
  rw [Codeword.append, BitVec.toNat_or, hshift, hbit, ← Nat.shiftLeft_add_eq_or_of_lt (by omega), Nat.shiftLeft_eq]
  omega

theorem toNat_append_len {a : Codeword} {b : Bool} (hl : a.len.toNat < 64) :
    (a.append b).len.toNat = a.len.toNat + 1 := by
  simp [Codeword.append, BitVec.toNat_add]
  omega

/-- DECODE runs in P_TABLE and appends only below 64 bits (R150). -/
theorem accOk_append {s u : State} {b : Bool} (hs : s.AccOk) (hp : s.phase = .table) (hfull : s.acc.len ≠ 64#7)
    (hacc : u.acc = s.acc.append b) (hphase : u.phase = s.phase) : u.AccOk := by
  have hl : s.acc.len.toNat < 64 := by
    have h := hs.length
    have : s.acc.len.toNat ≠ (64#7).toNat := fun h => hfull (BitVec.eq_of_toNat_eq h)
    simp at this; omega
  have hv := hs.value
  have hb := Bool.toNat_le b
  refine ⟨by rw [hacc, toNat_append_len hl]; omega, ?_, fun hne => absurd (hphase.trans hp) hne⟩
  rw [hacc, toNat_append_len hl, toNat_append_val hl hv, Nat.pow_succ]
  omega

/-- Every effect keeps the accumulator's invariant. -/
theorem accOk_effect {i : Instr} {emits : Bool} {s u : State} (h : s.Effect i emits u) (hs : s.AccOk) :
    u.AccOk := by
  cases h with
  | clear | gentable | emit | ldbegin | ldend => exact accOk_of_empty rfl
  | heapinit hp => exact accOk_of_onlyTree (onlyTree_heapInit s) (by simp [hp]) hs
  | merge hp h => exact accOk_of_onlyTree (onlyTree_mergeOnce hp h) (by simp [hp]) hs
  | build ha h =>
    have hp : s.phase ≠ .table := by intro hp; simp [accepts, hp] at ha
    exact accOk_of_onlyTree (onlyTree_bodyBuild ha h) hp hs
  | append chr b hp hroom => exact accOk_append hs hp hroom rfl rfl
  | unchanged | bump | add | results | ldent => exact accOk_of_eq (s := s) rfl rfl hs

/-! ## The latch and SYMV (R37, R204, R206) -/

/-- Every effect leaves the latch as it is, or clears it. -/
theorem latch_effect {i : Instr} {emits : Bool} {s u : State} (h : s.Effect i emits u) :
    (u.err = s.err ∧ u.errcmd = s.errcmd) ∨ (u.err = .noError ∧ u.errcmd = 0#32) := by
  have tree {u : State} (ho : s.OnlyTree u) : u.err = s.err ∧ u.errcmd = s.errcmd := ⟨ho.err, ho.errcmd⟩
  cases h with
  | clear => exact .inr ⟨rfl, rfl⟩
  | heapinit _ => exact .inl (tree (onlyTree_heapInit s))
  | merge hp h => exact .inl (tree (onlyTree_mergeOnce hp h))
  | build ha h => exact .inl (tree (onlyTree_bodyBuild ha h))
  | unchanged | bump | add | gentable | results | append | emit | ldbegin | ldent | ldend => exact .inl ⟨rfl, rfl⟩

/-- An effect that emits is DECODE's at a codeword of the table, which its symbol and the accumulator show (R150). -/
theorem emits_effect {i : Instr} {s u : State} (h : s.Effect i true u) :
    ∃ chr e, i = .decode chr ∧ e ∈ s.code ∧ s.phase = .table ∧
      u = setResults (zext32 e.sym) 0#32 0#32 { s with acc := .empty } := by
  cases h with
  | emit chr b e hp he => exact ⟨chr, e, rfl, List.mem_of_find?_eq_some he, hp, rfl⟩

theorem latchOk_of_sameBlock {s t : State} (h : s.SameBlock t) (hs : s.LatchOk) : t.LatchOk := by
  refine ⟨by simpa only [h.err, h.errcmd] using hs.recorded, fun w hw => ?_,
    by simpa only [h.symv, h.err, h.phase, h.acc] using hs.emitted⟩
  obtain ⟨hpend, hcmd⟩ | hnew := h.pending
  · exact hcmd.trans (hs.pending w (hpend.symm.trans hw))
  · exact Option.some.inj (hnew.symm.trans hw)

theorem latchOk_resetBlock (s : State) : (resetBlock s).LatchOk := by
  constructor <;> simp

theorem latchOk_raiseError {s : State} {e : Err} (he : e ≠ .noError) : (raiseError e s).LatchOk := by
  constructor <;> simp [he]

/-- A completion that emits nothing clears SYMV and PENDING. -/
theorem latchOk_finish {s : State} (h : s.err = .noError → s.errcmd = 0#32) : (finish false s).LatchOk :=
  ⟨h, by simp, by simp⟩

theorem latchOk_effect {i : Instr} {emits : Bool} {s u : State} (hrun : s.err = .noError ∨ runsLatched i = true)
    (h : s.Effect i emits u) (hs : s.LatchOk) : (finish emits u).LatchOk := by
  cases emits with
  | false =>
    refine latchOk_finish fun hu => ?_
    obtain ⟨herr, hcmd⟩ | ⟨-, hcmd⟩ := latch_effect h
    · exact hcmd.trans (hs.recorded (herr.symm.trans hu))
    · exact hcmd
  | true =>
    obtain ⟨chr, e, rfl, -, hp, rfl⟩ := emits_effect h
    have herr : s.err = .noError := by simpa [runsLatched] using hrun
    exact ⟨hs.recorded, by simp, fun _ => ⟨herr, hp, rfl⟩⟩

/-- Settles O55, by everything a step can do. -/
theorem stepKeepsTheLatchAndTheAccumulator : Obligations.StepKeepsTheLatchAndTheAccumulator := by
  intro s t hl ha h
  obtain hb | ⟨rest, rfl⟩ | rfl | ⟨e, he, rfl⟩ | ⟨i, emits, u, hrun, hu, rfl⟩ := step_effect h
  · exact ⟨latchOk_of_sameBlock hb hl, accOk_of_eq hb.acc hb.phase ha⟩
  · exact ⟨latchOk_resetBlock _, accOk_of_empty rfl⟩
  · exact ⟨latchOk_finish hl.recorded, accOk_of_eq (s := s) rfl rfl ha⟩
  · exact ⟨latchOk_raiseError he, accOk_of_eq (s := s) rfl rfl ha⟩
  · exact ⟨latchOk_effect hrun hu hl, accOk_of_eq (s := u) rfl rfl (accOk_effect hu ha)⟩

/-! ## The whole invariant -/

/-- Settles O57: the tree and the code table are kept together, the latch and the accumulator by themselves. -/
theorem stepKeepsTheInvariant : Obligations.StepKeepsTheInvariant := by
  intro s t hs h
  obtain ⟨htree, hcode⟩ := step_keeps_treeInv_codeOk hs.tree hs.code h
  obtain ⟨hlatch, hacc⟩ := stepKeepsTheLatchAndTheAccumulator s t hs.latch hs.acc h
  exact ⟨htree, hlatch, hacc, hcode⟩

/-- Settles O52: after reset every table is empty and nothing is latched. -/
theorem resetMeetsTheInvariant : Obligations.ResetMeetsTheInvariant := fun b hb =>
  ⟨treeInv_resetOf hb, latchOk_resetBlock (State.resetOf b), accOk_of_empty rfl, codeOk_resetOf b⟩

end Sys2Proof.Machine
end

section
/-! SUPPORT. The statements about a completion (R26, R30, R37) and about the registers (R21-R29, R39). -/

namespace Sys2Proof.Machine

/-! ## A command out of its phase (R30, R202) -/

/-- The state an error leaves, with the pending word recorded (R204). -/
theorem raiseError_eq_latches {s : State} {w : Word} (hw : s.pending = some w) (e : Err) :
    raiseError e s = s.latches e w := by
  simp [raiseError, State.latches, State.commandWord, hw]

theorem exec_outOfPhase {i : Instr} {s : State} {w : Word} (hw : s.pending = some w) (he : s.err = .noError)
    (ha : accepts s.phase i = false) : exec i s = .next (s.latches .phase w) := by
  rw [exec_eq_command, command_outOfPhase he ha, raiseError_eq_latches hw]

/-- Settles O7, command by command from the phases of R30. -/
theorem commandsOutOfPhaseRaisePhase : Obligations.CommandsOutOfPhaseRaisePhase := by
  intro s w sym chr hw he
  have raises {i : Instr} (ha : accepts s.phase i = false) : exec i s = .next (s.latches .phase w) :=
    exec_outOfPhase hw he ha
  refine ⟨fun h => ⟨raises ?_, raises ?_⟩, fun h => raises ?_, fun h h' => raises ?_, fun h => raises ?_,
    fun h => ⟨raises ?_, raises ?_, raises ?_⟩, fun h => ⟨raises ?_, raises ?_⟩⟩
  all_goals simp [accepts, *]

/-! ## The result registers (R26) -/

theorem results_of_effect {i : Instr} {emits : Bool} {s u : State} (h : s.Effect i emits u)
    (hi : i.opcode ∉ [.merge, .build, .encode, .decode, .rdfreq, .rdnode, .rdcode, .clear]) :
    u.res0 = s.res0 ∧ u.res1 = s.res1 ∧ u.res2 = s.res2 := by
  cases h with
  | clear | merge | build | append | emit => simp [Instr.opcode] at hi
  | results a b c hr => simp only [List.mem_cons, List.not_mem_nil, or_false] at hi hr; tauto
  | heapinit _ => simp only [heapInit]; split <;> exact ⟨rfl, rfl, rfl⟩
  | unchanged | bump | add | gentable | ldbegin | ldent | ldend => exact ⟨rfl, rfl, rfl⟩

/-- Settles O13, by the effects of the commands. -/
theorem onlyResultCommandsWriteResults : Obligations.OnlyResultCommandsWriteResults := by
  intro i s t h hi
  obtain rfl | ⟨e, -, rfl⟩ | ⟨-, emits, u, hu, rfl⟩ := exec_effect h
  · exact ⟨rfl, rfl, rfl⟩
  · exact ⟨rfl, rfl, rfl⟩
  · obtain ⟨h0, h1, h2⟩ := results_of_effect hu hi
    exact ⟨h0, h1, h2⟩

/-! ## SYMV (R37, R150) -/

/-- Settles O14: of all completions only DECODE's emitting one ends with SYMV 1. -/
theorem symvMeansADecodeEmitted : Obligations.SymvMeansADecodeEmitted := by
  intro s t w h hsymv
  obtain rfl | ⟨e, -, rfl⟩ | ⟨i, hw, hrun, emits, u, hu, rfl⟩ := complete_effect h
  · simp at hsymv
  · simp at hsymv
  · obtain rfl : emits = true := hsymv
    obtain ⟨chr, e, rfl, he, hp, rfl⟩ := emits_effect hu
    refine ⟨by simpa [runsLatched] using hrun, hp, rfl, chr, e, hw, he, ?_⟩
    have := e.sym.isLt
    simp; omega

/-! ## The registers' statements (R21-R29) -/

/-- A concatenation shows its high part above its low part. -/
theorem toNat_append_eq_add {m n : Nat} (x : BitVec m) (y : BitVec n) :
    (x ++ y).toNat = x.toNat * 2 ^ n + y.toNat := by
  rw [BitVec.toNat_append, ← Nat.shiftLeft_add_eq_or_of_lt y.isLt, Nat.shiftLeft_eq]

theorem phase_bits_table (p : Phase) :
    (p, p.bits.toNat) ∈ [(Phase.count, 0), (.merge, 1), (.tree, 2), (.table, 3), (.load, 4)] := by
  cases p <;> decide

theorem err_bits_table (e : Err) : (e, e.bits.toNat) ∈
    [(Err.noError, 0), (.illegalOp, 1), (.reservedField, 2), (.phase, 3), (.invalidSymbol, 4), (.tableFull, 5),
     (.countOverflow, 6), (.unmappableSymbol, 7), (.truncatedPayload, 8), (.badEntry, 9), (.badPayloadChar, 10),
     (.accOverflow, 11), (.indexRange, 12), (.codeTooLong, 13)] := by
  cases e <;> decide

/-- Settles O40: STATUS is a concatenation of its fields. -/
theorem statusShowsItsFields : Obligations.StatusShowsItsFields := by
  intro s
  refine ⟨s.phase.bits.toNat, s.err.bits.toNat, ?_, phase_bits_table s.phase, err_bits_table s.err⟩
  have herrf : s.errf.toNat = if s.err = .noError then 0 else 1 := by
    by_cases h : s.err = .noError <;> simp [State.errf, h]
  simp only [State.status, toNat_append_eq_add, BitVec.toNat_ofBool, BitVec.toNat_ofNat, herrf]
  omega

/-- R39's row of P_TREE: the counts and the root of a completed tree, or of the empty one. -/
theorem counts_of_treeDone {s : State} (h : s.TreeDone) :
    s.heapn = min s.nsym 1 ∧ (s.nsym = 0 → s.nnode = 0 ∧ s.root = none) ∧
      (s.nsym ≠ 0 → s.nnode = 2 * s.nsym - 1 ∧ ∃ k, s.root = some k ∧ s.heap = [k] ∧ k.toNat = s.nnode - 1) := by
  simp only [State.heapn, State.nsym, State.nnode, ne_eq, List.length_eq_zero_iff]
  by_cases hf : s.freq = []
  · obtain ⟨hn, hh, hr⟩ := h.empty hf
    simp [hf, hn, hh, hr]
  · obtain ⟨k, hr, hh, hn, hk⟩ := h.root hf
    have hpos := List.length_pos_of_ne_nil hf
    refine ⟨by simp [hh]; omega, fun h0 => absurd h0 hf, fun _ => ⟨hn, k, hr, hh, hk⟩⟩

theorem counts_of_noTree {s : State} (h : s.NoTree) :
    s.nsym = 0 ∧ s.nnode = 0 ∧ s.heapn = 0 ∧ s.root = none := by
  obtain ⟨hf, -, hn, hh, hr⟩ := h
  simp [State.heapn, State.nsym, State.nnode, hf, hn, hh, hr]

/-- Settles O53, phase by phase. -/
theorem phaseFactsHoldInTheInvariant : Obligations.PhaseFactsHoldInTheInvariant := by
  intro s hs
  have htree := hs.tree.tree
  refine ⟨fun hp => ?_, fun hp => ?_, fun hp => ?_, fun hp => ⟨hs.acc.length, ?_⟩, fun hp => ?_⟩
  · obtain ⟨hn, hh, hr, hc⟩ := (treeOk_count hp).mp htree
    exact ⟨by simp [State.nnode, hn], by simp [State.heapn, hh], hr, by simp [State.ncode, hc],
      hs.acc.phase (by simp [hp])⟩
  · obtain ⟨hf, hh, hr, hc⟩ := (treeOk_merge hp).mp htree
    have hlen := hf.heap_length_add
    have hle := hf.freq_length_le
    simp only [State.nsym, State.nnode, State.heapn, State.ncode]
    exact ⟨hle, by omega, hh, by omega, hr, by simp [hc]⟩
  · obtain ⟨hd, hc⟩ := (treeOk_tree hp).mp htree
    obtain ⟨h1, h2, h3⟩ := counts_of_treeDone hd
    exact ⟨h1, h2, h3, by simp [State.ncode, hc]⟩
  · obtain ⟨hd, hc⟩ | hno := (treeOk_table hp).mp htree
    · obtain ⟨h1, h2, h3⟩ := counts_of_treeDone hd
      exact .inl ⟨h1, h2, h3, hc⟩
    · exact .inr (counts_of_noTree hno)
  · obtain ⟨h1, h2, h3, h4⟩ := counts_of_noTree ((treeOk_load hp).mp htree)
    exact ⟨h1, h2, h3, h4, hs.acc.phase (by simp [hp])⟩

/-- In the tree invariant the arena holds at most `2 * N_MAX - 1` nodes and the heap at most `N_MAX` members (R7,
R56). -/
theorem node_heap_bounds {s : State} (hs : s.TreeInv) :
    s.node.length ≤ 2 * s.build.nMax - 1 ∧ s.heap.length ≤ s.build.nMax := by
  have hsize := hs.freq.size
  have hmax := (nMax_le hs.build).1
  have forest (hf : s.Forest) (hh : 1 ≤ s.heap.length ∨ s.node = []) :
      s.node.length ≤ 2 * s.build.nMax - 1 ∧ s.heap.length ≤ s.build.nMax := by
    have hlen := hf.heap_length_add
    have hle := hf.freq_length_le
    obtain hh | hh := hh
    · omega
    · simp only [hh, List.length_nil] at hlen hle ⊢; omega
  have done (hd : s.TreeDone) : s.node.length ≤ 2 * s.build.nMax - 1 ∧ s.heap.length ≤ s.build.nMax := by
    refine forest hd.forest ?_
    by_cases hf : s.freq = []
    · exact .inr (hd.empty hf).1
    · obtain ⟨k, -, hh, -⟩ := hd.root hf
      exact .inl (by simp [hh])
  have none (hn : s.node = []) (hh : s.heap = []) :
      s.node.length ≤ 2 * s.build.nMax - 1 ∧ s.heap.length ≤ s.build.nMax := by
    simp [hn, hh]
  have htree := hs.tree
  cases hp : s.phase with
  | count =>
    obtain ⟨hn, hh, -, -⟩ := (treeOk_count hp).mp htree
    exact none hn hh
  | merge =>
    obtain ⟨hf, hh, -, -⟩ := (treeOk_merge hp).mp htree
    exact forest hf (.inl (by omega))
  | tree =>
    obtain ⟨hd, -⟩ := (treeOk_tree hp).mp htree
    exact done hd
  | table =>
    obtain ⟨hd, -⟩ | ⟨-, -, hn, hh, -⟩ := (treeOk_table hp).mp htree
    · exact done hd
    · exact none hn hh
  | load =>
    obtain ⟨-, -, hn, hh, -⟩ := (treeOk_load hp).mp htree
    exact none hn hh

theorem toNat_countRegister {n : Nat} (h : n < 2 ^ 16) : (countRegister n).toNat = n := by
  simp [countRegister]; omega

theorem toNat_rootRegister {s : State} {k : Index} (h : s.root = some k) :
    s.rootRegister.toNat = 2 ^ 31 + k.toNat := by
  simp only [State.rootRegister, h, toNat_append_eq_add, BitVec.toNat_ofNat]
  omega

/-- The two halves of a 64-bit word make it up. -/
theorem toNat_halves (v : BitVec 64) :
    (v.extractLsb' 0 32).toNat + 2 ^ 32 * (v.extractLsb' 32 32).toNat = v.toNat := by
  have := v.isLt
  simp only [BitVec.extractLsb'_toNat, Nat.shiftRight_eq_div_pow]
  omega

/-- Settles O41: no register truncates what it shows, by the bounds of the invariant. -/
theorem viewRegistersShowTheTables : Obligations.ViewRegistersShowTheTables := by
  refine ⟨fun s => ⟨rfl, rfl, rfl, rfl, rfl, rfl, rfl, rfl, rfl, rfl⟩, fun s hs => ?_⟩
  have hmax := (nMax_le hs.tree.build).2
  have hfreq := hs.tree.freq.size
  have hcode := hs.code.size
  obtain ⟨hnode, hheap⟩ := node_heap_bounds hs.tree
  have hcfg : s.cfg.toNat = s.build.nMax + 64 * 2 ^ 16 := by
    simp only [State.cfg, toNat_append_eq_add, Config.lMax, BitVec.toNat_ofNat]
    omega
  have hacclen : s.accLen.toNat = s.acc.len.toNat := by
    have := s.acc.len.isLt
    simp [State.accLen]; omega
  exact ⟨hcfg, toNat_countRegister (by rw [State.nsym]; omega), hfreq,
    toNat_countRegister (by rw [State.nnode]; omega), hnode, toNat_countRegister (by rw [State.ncode]; omega), hcode,
    toNat_countRegister (by rw [State.heapn]; omega), hheap, fun hr => by simp [State.readReg, State.rootRegister, hr],
    fun k hk => toNat_rootRegister hk, hs.tree.freq.sum.symm, hacclen, toNat_halves s.acc.val⟩

end Sys2Proof.Machine
end

section
/-! SUPPORT. The statements about the host's accesses to the window (R50-R54, R57, R64). -/

namespace Sys2Proof.Machine

/-! ## Byte lanes (R51) -/

theorem toNat_byteLane (j : Nat) (v : Word) : (byteLane j v).toNat = v.toNat / 2 ^ (8 * j) % 2 ^ 8 := by
  simp [byteLane, BitVec.extractLsb'_toNat, Nat.shiftRight_eq_div_pow]

/-- Settles O42: the lanes are the base-256 digits of the word. -/
theorem byteLanesAreLittleEndian : Obligations.ByteLanesAreLittleEndian := by
  intro v
  have := v.isLt
  simp only [toNat_byteLane, Nat.reduceMul, Nat.reducePow]
  omega

/-! ## The host's turn (R59) and the access check (R50, R52) -/

/-- A step is the host's next action when no completion comes first. -/
theorem step_host {s : State} {a : HostAction} {rest : List HostAction} (h : s.todo = a :: rest)
    (hd : s.pending = none ∨ s.delay ≠ 0) : step s = hostAct a rest s := by
  simp [step, turn_host h hd]

theorem hostAct_read_of_offset {s : State} {o : Nat} (h : o < 256) (h4 : o % 4 = 0) (rest : List HostAction) :
    hostAct (.read (s.build.base + o) 4) rest s = .next (hostRead o (s.advance rest)) := by
  simp [hostAct, access_of_offset h h4]

theorem hostAct_write_of_offset {s : State} {o : Nat} (h : o < 256) (h4 : o % 4 = 0) (v : Word)
    (rest : List HostAction) :
    hostAct (.write (s.build.base + o) 4 v) rest s = .next (hostWrite o v (s.advance rest)) := by
  simp [hostAct, access_of_offset h h4]

theorem access_outside {s : State} {addr : Nat} (h : addr < s.build.base ∨ s.build.base + 256 ≤ addr) (bytes : Nat) :
    s.access addr bytes = .refused (.outsideWindow addr) := by
  simp [State.access, h]

theorem access_undefined {s : State} {addr bytes : Nat} (h0 : s.build.base ≤ addr) (h1 : addr < s.build.base + 256)
    (h : bytes ≠ 4 ∨ (addr - s.build.base) % 4 ≠ 0) : s.access addr bytes = .refused (.undefinedAccess addr bytes) := by
  have hin : ¬(addr < s.build.base ∨ s.build.base + 256 ≤ addr) := by omega
  simpa [State.access, hin] using fun hb => h.resolve_left (not_not_intro hb)

/-- A read or write that the access check refuses is refused by the step, for the same reason. -/
theorem step_of_access_refused {s : State} {addr bytes : Nat} {v : Word} {rest : List HostAction} {r : Refusal}
    (ht : s.todo = .read addr bytes :: rest ∨ s.todo = .write addr bytes v :: rest)
    (hd : s.pending = none ∨ s.delay ≠ 0) (h : s.access addr bytes = .refused r) : step s = .refused r := by
  obtain ht | ht := ht <;> simp [step_host ht hd, hostAct, h]

/-- Settles O49, by the two branches of the access check that refuse. -/
theorem undefinedAccessesAreRefused : Obligations.UndefinedAccessesAreRefused :=
  fun _ _ bytes _ _ ht hd =>
    ⟨fun hout => step_of_access_refused ht hd (access_outside hout bytes),
     fun h0 h1 h => step_of_access_refused ht hd (access_undefined h0 h1 h)⟩

/-! ## The register map (10_state.md) -/

theorem Reg.mem_all (r : Reg) : r ∈ Reg.all := List.mem_of_find?_eq_some (atOffset_offset r)

/-- No register lies at the reserved offsets 0x1C, 0x2C and 0x58 onwards (R53). -/
theorem atOffset_reserved {o : Nat} (h : o = 0x1C ∨ o = 0x2C ∨ 0x58 ≤ o) : Reg.atOffset? o = none := by
  have hfree : ∀ r ∈ Reg.all, r.offset ≠ 0x1C ∧ r.offset ≠ 0x2C ∧ r.offset < 0x58 := by decide
  cases hr : Reg.atOffset? o with
  | none => rfl
  | some r =>
    have hoff := atOffset_some hr
    have hr_free := hfree r r.mem_all
    omega

/-! ## Reads (R53, R57, R64) -/

/-- Settles O43: a read step is `hostRead`, and the map written out is the list of all registers with their offsets. -/
theorem hostReadHasNoSideEffect : Obligations.HostReadHasNoSideEffect := by
  intro s rest hd
  refine ⟨fun offset ht h h4 => ⟨s.readsAt offset, ?_, ?_, ?_⟩, fun ht => ?_⟩
  · rw [step_host ht hd, hostAct_read_of_offset h h4]
    rfl
  · exact fun hres => readsAt_reserved (atOffset_reserved hres)
  · intro r hr
    have hmap : (offset, r) ∈ Reg.all.map fun r => (r.offset, r) := hr
    obtain ⟨_, -, ⟨⟩⟩ := List.mem_map.mp hmap
    exact ⟨readsAt_offset s r, fun hp => (readsAt_offset s r).trans (hostReads_idle hp r)⟩
  · have hscript : (if s.busy then .poll :: rest else rest) = if s.pending = none then rest else .poll :: rest := by
      cases hp : s.pending <;> simp [State.busy, hp]
    rw [step_host ht hd, hostAct, hscript]
    rfl

theorem hostReads_busy {s : State} (h : s.busy = true) (r : Reg) :
    s.hostReads r = (s.readReg r &&& r.definedWhileBusy) ||| (Config.freeRead s.draws &&& ~~~ r.definedWhileBusy) := by
  simp [State.hostReads, h]

theorem hostReads_busy_of_defined {s : State} {r : Reg} (h : s.busy = true)
    (hr : r.definedWhileBusy = BitVec.allOnes 32) : s.hostReads r = s.readReg r := by
  rw [hostReads_busy h, hr, BitVec.not_allOnes, BitVec.and_allOnes, BitVec.and_zero, BitVec.or_zero]

theorem hostReads_busy_of_undefined {s : State} {r : Reg} (h : s.busy = true) (hr : r.definedWhileBusy = 0#32) :
    s.hostReads r = Config.freeRead s.draws := by
  rw [hostReads_busy h, hr, BitVec.not_zero, BitVec.and_allOnes, BitVec.and_zero, BitVec.zero_or]

/-- BUSY is bit 0 of STATUS (R23). -/
theorem status_lsb (s : State) : s.status.getLsbD 0 = s.busy := by
  rw [State.status, BitVec.getLsbD_append]
  simp

/-- Bit 0 of one word under the other bits of another. -/
theorem lowBit_or_highBits {x y : Word} (hx : x.getLsbD 0 = true) :
    (x &&& 1#32) ||| (y &&& ~~~ 1#32) = y.extractLsb' 1 31 ++ 1#1 := by
  apply BitVec.eq_of_getLsbD_eq
  intro i hi
  rw [BitVec.getLsbD_append]
  cases i with
  | zero => simpa using hx
  | succ i =>
    have hi' : i < 31 := by omega
    simp [-BitVec.reduceNot, Nat.add_comm 1 i, hi, hi']

/-- A read of STATUS while BUSY: bit 0 set under the upper bits of the free draw (R64). -/
theorem hostReads_busy_status {s : State} (h : s.busy = true) :
    s.hostReads .status = (Config.freeRead s.draws).extractLsb' 1 31 ++ 1#1 := by
  rw [hostReads_busy h]
  exact lowBit_or_highBits ((status_lsb s).trans h)

/-- Settles O44: each register's bits that are defined while BUSY are all, none, or bit 0 of STATUS. -/
theorem readsWhileBusyAreDrawn : Obligations.ReadsWhileBusyAreDrawn := by
  intro s r hb
  refine ⟨fun hr => ?_, ?_, fun hr => ?_⟩
  · have hall : ∀ r ∈ [Reg.id, .cfg, .cmd, .arg0, .arg1, .arg2], r.definedWhileBusy = BitVec.allOnes 32 := by decide
    exact hostReads_busy_of_defined hb (hall r hr)
  · rintro rfl
    have := (Config.freeRead s.draws).isLt
    simp only [hostReads_busy_status hb, toNat_append_eq_add, BitVec.extractLsb'_toNat, Nat.shiftRight_eq_div_pow,
      BitVec.toNat_ofNat]
    omega
  · have hnone : ∀ r ∈ Reg.all, r ∉ [.id, .cfg, .cmd, .arg0, .arg1, .arg2, .status] → r.definedWhileBusy = 0#32 := by
      decide
    exact hostReads_busy_of_undefined hb (hnone r r.mem_all hr)

/-! ## Writes (R53, R54) -/

/-- A write at an offset other than those of CMD and ARG0 to ARG2 changes nothing. -/
theorem hostWrite_ignored {o : Nat} (h : o ∉ [0x0C, 0x10, 0x14, 0x18]) (v : Word) (s : State) :
    hostWrite o v s = s := by
  unfold hostWrite
  cases hr : Reg.atOffset? o with
  | none => rfl
  | some r =>
    obtain rfl := atOffset_some hr
    cases r with
    | cmd | arg0 | arg1 | arg2 => exact absurd h (by decide)
    | id | cfg | status | res0 | res1 | res2 | nsym | nnode | ncode | heapn | root | total | acclen | acclo | acchi
    | errcmd => rfl

/-- Settles O45: such a write leaves the state the host's turn has already advanced, idle or busy. -/
theorem readOnlyAndReservedWritesAreIgnored : Obligations.ReadOnlyAndReservedWritesAreIgnored := by
  intro s offset v rest ht h h4 hoff hd
  rw [step_host ht hd, hostAct_write_of_offset h h4, hostWrite_ignored hoff]
  rfl

end Sys2Proof.Machine
end

section
/-! SUPPORT. The statements about the encoding (R70-R75, R82). -/

namespace Sys2Proof

/-! ## The fields of a word (R70) -/

theorem toNat_opField (w : Word) : (opField w).toNat = w.toNat / 2 ^ 24 := by
  have := w.isLt
  simp only [opField, BitVec.extractLsb'_toNat, Nat.shiftRight_eq_div_pow]
  omega

theorem toNat_immField (w : Word) : (immField w).toNat = w.toNat % 2 ^ 24 := by
  simp [immField, BitVec.extractLsb'_toNat]

theorem opField_append_immField (w : Word) : opField w ++ immField w = w :=
  BitVec.extractLsb'_append_extractLsb'

@[simp] theorem opField_encode (i : Instr) : opField (encode i) = i.opcode.bits := BitVec.extractLsb'_append_eq_left

@[simp] theorem immField_encode (i : Instr) : immField (encode i) = i.imm := BitVec.extractLsb'_append_eq_right

theorem toNat_encode (i : Instr) : (encode i).toNat = i.opcode.bits.toNat * 2 ^ 24 + i.imm.toNat :=
  Machine.toNat_append_eq_add _ _

/-! ## The opcode numbers (R72, R73) -/

theorem ofBits?_bits (o : Opcode) : Opcode.ofBits? o.bits = some o := by
  cases o <;> decide

theorem ofBits?_eq_none_iff {b : BitVec 8} : Opcode.ofBits? b = none ↔ ∀ o : Opcode, o.bits ≠ b := by
  have mem_all (o : Opcode) : o ∈ Opcode.all := List.mem_of_find?_eq_some (ofBits?_bits o)
  simp [Opcode.ofBits?, mem_all]

theorem ofBits?_eq_some_iff {b : BitVec 8} {o : Opcode} : Opcode.ofBits? b = some o ↔ o.bits = b := by
  constructor
  · intro h
    simpa using List.find?_some h
  · rintro rfl
    exact ofBits?_bits o

/-! ## The operand forms (R71) -/

/-- The width of the operand field of each form (R71). -/
def Form.fieldWidth : Form → Nat
  | .none => 0
  | .symbol => 21
  | .character => 8
  | .index => 16

theorem reservedMask_eq_shiftLeft (f : Form) : f.reservedMask = BitVec.allOnes 24 <<< f.fieldWidth := by
  cases f <;> decide

/-- The reserved bits of IMM are 0 exactly when the operand field holds all of it. -/
theorem and_reservedMask_eq_zero_iff {f : Form} {imm : BitVec 24} :
    imm &&& f.reservedMask = 0#24 ↔ imm.toNat < 2 ^ f.fieldWidth := by
  have hle : imm.toNat / 2 ^ f.fieldWidth * 2 ^ f.fieldWidth < 2 ^ 24 :=
    (Nat.div_mul_le_self _ _).trans_lt imm.isLt
  rw [reservedMask_eq_shiftLeft, ← BitVec.shiftLeft_ushiftRight, ← BitVec.toNat_inj, BitVec.toNat_shiftLeft,
    BitVec.toNat_ushiftRight, Nat.shiftLeft_eq, Nat.shiftRight_eq_div_pow, Nat.mod_eq_of_lt hle]
  simp [Nat.div_eq_zero_iff]

theorem fieldWidth_le (f : Form) : f.fieldWidth ≤ 24 := by
  cases f <;> decide

theorem capacity_eq_two_pow {f : Form} (h : f ≠ .none) : f.capacity = 2 ^ f.fieldWidth := by
  cases f with
  | none => exact absurd rfl h
  | symbol | character | index => rfl

theorem formReservedField_eq_zero_iff {f : Form} {w : Word} :
    Machine.formReservedField f w = 0 ↔ (immField w).toNat < 2 ^ f.fieldWidth := by
  have := w.isLt
  rw [toNat_immField]
  cases f <;> simp only [Machine.formReservedField, Form.fieldWidth] <;> omega

theorem immSymbol_eq_setWidth (imm : BitVec 24) : immSymbol imm = imm.setWidth 21 :=
  (BitVec.setWidth_eq_extractLsb' (by decide)).symm

theorem immCharacter_eq_setWidth (imm : BitVec 24) : immCharacter imm = imm.setWidth 8 :=
  (BitVec.setWidth_eq_extractLsb' (by decide)).symm

theorem immIndex_eq_setWidth (imm : BitVec 24) : immIndex imm = imm.setWidth 16 :=
  (BitVec.setWidth_eq_extractLsb' (by decide)).symm

/-! ## A command is its opcode and its operand (R72, R75) -/

@[simp] theorem opcode_instr (o : Opcode) (imm : BitVec 24) : (o.instr imm).opcode = o := by
  cases o <;> rfl

theorem instr_operand (i : Instr) : i.opcode.instr (BitVec.ofNat 24 (i.operand.getD 0)) = i := by
  cases i with
  | nop | clear | heapinit | merge | build | gentable | decend | ldbegin | ldend => rfl
  | count a | encode a | decode a | ldent a | rdfreq a | rdnode a | rdcode a =>
    simp [Instr.opcode, Instr.operand, Opcode.instr, immSymbol_eq_setWidth,
      immCharacter_eq_setWidth, immIndex_eq_setWidth]

theorem operand_instr (o : Opcode) (w : Word) :
    (o.instr (immField w)).operand = Machine.formOperandField o.form w := by
  cases o with
  | nop | clear | heapinit | merge | build | gentable | decend | ldbegin | ldend => rfl
  | count | encode | decode | ldent | rdfreq | rdnode | rdcode =>
    simp [Opcode.instr, Instr.operand, Opcode.form, Machine.formOperandField, immSymbol_eq_setWidth,
      immCharacter_eq_setWidth, immIndex_eq_setWidth, toNat_immField]

/-- The command of an opcode that carries the operand in the word's operand field. -/
theorem instr_immField_eq_iff {i : Instr} {w : Word} :
    i.opcode.instr (immField w) = i ↔ i.operand = Machine.formOperandField i.opcode.form w := by
  constructor
  · intro h
    rw [← operand_instr, h]
  · intro h
    rw [← instr_operand (i.opcode.instr (immField w)), operand_instr, opcode_instr, ← h, instr_operand]

theorem imm_eq_ofNat_operand (i : Instr) : i.imm = BitVec.ofNat 24 (i.operand.getD 0) := by
  cases i with
  | nop | clear | heapinit | merge | build | gentable | decend | ldbegin | ldend => rfl
  | count a | encode a | decode a | ldent a | rdfreq a | rdnode a | rdcode a => simp [Instr.imm, Instr.operand]

theorem instr_imm (i : Instr) : i.opcode.instr i.imm = i := by
  rw [imm_eq_ofNat_operand, instr_operand]

/-- The operand of a command fits its field. -/
theorem toNat_imm_lt (i : Instr) : i.imm.toNat < 2 ^ i.opcode.form.fieldWidth := by
  cases i with
  | nop | clear | heapinit | merge | build | gentable | decend | ldbegin | ldend => decide
  | count a | encode a | decode a | ldent a | rdfreq a | rdnode a | rdcode a =>
    rw [Instr.imm, BitVec.toNat_setWidth]
    exact (Nat.mod_le _ _).trans_lt a.isLt

/-- IMM with its reserved bits 0 is the IMM of the command read from it. -/
theorem imm_instr {o : Opcode} {imm : BitVec 24} (h : imm.toNat < 2 ^ o.form.fieldWidth) :
    (o.instr imm).imm = imm := by
  apply BitVec.eq_of_toNat_eq
  cases o with
  | nop | clear | heapinit | merge | build | gentable | decend | ldbegin | ldend =>
    simpa [Opcode.form, Form.fieldWidth, Opcode.instr, Instr.imm, eq_comm] using h
  | count | encode | decode | ldent | rdfreq | rdnode | rdcode =>
    simp only [Opcode.form, Form.fieldWidth] at h
    simp only [Opcode.instr, Instr.imm, immSymbol_eq_setWidth, immCharacter_eq_setWidth, immIndex_eq_setWidth,
      BitVec.toNat_setWidth]
    omega

theorem toNat_encode_instr {o : Opcode} {imm : BitVec 24} (h : imm.toNat < 2 ^ o.form.fieldWidth) :
    (encode (o.instr imm)).toNat = o.bits.toNat * 2 ^ 24 + imm.toNat := by
  rw [toNat_encode, opcode_instr, imm_instr h]

/-! ## Decoding (R75) -/

/-- Everything a word can be, by its OP and IMM. -/
theorem decode_cases (w : Word) :
    (∃ o : Opcode, o.bits = opField w ∧ (immField w).toNat < 2 ^ o.form.fieldWidth ∧
      decode w = .cmd (o.instr (immField w))) ∨
    (∃ o : Opcode, o.bits = opField w ∧ ¬ (immField w).toNat < 2 ^ o.form.fieldWidth ∧ decode w = .reserved) ∨
    ((∀ o : Opcode, o.bits ≠ opField w) ∧ decode w = .illegal) := by
  unfold decode
  split
  next h => exact .inr (.inr ⟨ofBits?_eq_none_iff.mp h, rfl⟩)
  next o h =>
    have ho := ofBits?_eq_some_iff.mp h
    simp only [and_reservedMask_eq_zero_iff]
    split
    next hfit => exact .inl ⟨o, ho, hfit, rfl⟩
    next hfit => exact .inr (.inl ⟨o, ho, hfit, rfl⟩)

theorem bits_injective : Function.Injective Opcode.bits := by
  intro o p h
  simpa [ofBits?_bits] using congrArg Opcode.ofBits? h

theorem decode_eq_cmd_iff {w : Word} {i : Instr} :
    decode w = .cmd i ↔ i.opcode.bits = opField w ∧ (immField w).toNat < 2 ^ i.opcode.form.fieldWidth ∧
      i.opcode.instr (immField w) = i := by
  obtain ⟨o, ho, hfit, hd⟩ | ⟨o, ho, hfit, hd⟩ | ⟨ho, hd⟩ := decode_cases w
  · constructor
    · intro h
      obtain rfl : o.instr (immField w) = i := by simpa [hd] using h
      simp [ho, hfit]
    · rintro ⟨hi, -, h⟩
      rw [hd, bits_injective (ho.trans hi.symm), h]
  · refine iff_of_false (by simp [hd]) ?_
    rintro ⟨hi, hlt, -⟩
    exact hfit (bits_injective (ho.trans hi.symm) ▸ hlt)
  · exact iff_of_false (by simp [hd]) fun h => ho _ h.1

theorem decode_eq_reserved_iff {w : Word} :
    decode w = .reserved ↔ ∃ o : Opcode, o.bits = opField w ∧ ¬ (immField w).toNat < 2 ^ o.form.fieldWidth := by
  obtain ⟨o, ho, hfit, hd⟩ | ⟨o, ho, hfit, hd⟩ | ⟨ho, hd⟩ := decode_cases w
  · refine iff_of_false (by simp [hd]) ?_
    rintro ⟨p, hp, hlt⟩
    exact hlt (bits_injective (ho.trans hp.symm) ▸ hfit)
  · exact iff_of_true hd ⟨o, ho, hfit⟩
  · exact iff_of_false (by simp [hd]) fun ⟨p, hp, _⟩ => ho p hp

theorem decode_eq_illegal_iff {w : Word} : decode w = .illegal ↔ ∀ o : Opcode, o.bits ≠ opField w := by
  obtain ⟨o, ho, -, hd⟩ | ⟨o, ho, -, hd⟩ | ⟨ho, hd⟩ := decode_cases w
  · exact iff_of_false (by simp [hd]) fun h => h o ho
  · exact iff_of_false (by simp [hd]) fun h => h o ho
  · exact iff_of_true hd ho

theorem decode_eq_cmd_iff_encode {w : Word} {i : Instr} : decode w = .cmd i ↔ encode i = w := by
  rw [decode_eq_cmd_iff]
  constructor
  · rintro ⟨ho, hfit, hi⟩
    have himm : i.imm = immField w := by rw [← imm_instr hfit, hi]
    rw [encode, ho, himm, opField_append_immField]
  · rintro rfl
    rw [opField_encode, immField_encode]
    exact ⟨rfl, toNat_imm_lt i, instr_imm i⟩

/-- Settles O1: a word decodes to a command exactly when it is the command's encoding. -/
theorem decodeAndEncodeAgree : Obligations.DecodeAndEncodeAgree :=
  ⟨fun _ => decode_eq_cmd_iff_encode.mpr rfl, fun _ _ => decode_eq_cmd_iff_encode.mp⟩

/-- Settles O3, word by word. -/
theorem wordsOfTheOpcodeTableDecode : Obligations.WordsOfTheOpcodeTableDecode := by
  unfold Obligations.WordsOfTheOpcodeTableDecode
  decide

/-! ## The assembler (R82) -/

theorem wellFormed_none_iff {o : Opcode} : AsmLine.WellFormed ⟨o, none⟩ = true ↔ o.form = .none := by
  cases o <;> decide

theorem wellFormed_some_iff {o : Opcode} {n : Nat} : AsmLine.WellFormed ⟨o, some n⟩ = true ↔ n < o.form.capacity := by
  cases h : o.form with
  | none => simp [AsmLine.WellFormed, h, Form.capacity]
  | symbol | character | index =>
    simp only [AsmLine.WellFormed, h]
    exact decide_eq_true_iff

theorem assemble_eq_none {l : AsmLine} (h : ¬ l.WellFormed = true) : l.assemble = none := by
  simp [AsmLine.assemble, h]

theorem assemble_eq_instr {l : AsmLine} (h : l.WellFormed = true) :
    l.assemble = some (l.opcode.instr (BitVec.ofNat 24 (l.operand.getD 0))) := by
  obtain ⟨o, n⟩ := l
  rw [AsmLine.assemble, if_pos h]
  cases o <;> simp [Opcode.instr, immSymbol_eq_setWidth, immCharacter_eq_setWidth, immIndex_eq_setWidth]

/-- An operand that fits is placed in the low bits of IMM. -/
theorem assemble_some {o : Opcode} {n : Nat} (h : n < o.form.capacity) :
    ∃ i, AsmLine.assemble ⟨o, some n⟩ = some i ∧ (encode i).toNat = o.bits.toNat * 2 ^ 24 + n := by
  have hform : o.form ≠ .none := by
    intro hf
    simp [hf, Form.capacity] at h
  have hfit : n < 2 ^ o.form.fieldWidth := capacity_eq_two_pow hform ▸ h
  have hn : (BitVec.ofNat 24 n).toNat = n :=
    Nat.mod_eq_of_lt (hfit.trans_le (Nat.pow_le_pow_right (by decide) (fieldWidth_le _)))
  refine ⟨_, assemble_eq_instr (wellFormed_some_iff.mpr h), ?_⟩
  rw [Option.getD_some, toNat_encode_instr (by rwa [hn]), hn]

/-- Settles O4, by whether the line is well formed. -/
theorem assemblerPlacesTheOperandOrRefuses : Obligations.AssemblerPlacesTheOperandOrRefuses := by
  intro o n
  refine ⟨fun hf => ⟨⟨_, assemble_eq_instr (wellFormed_none_iff.mpr hf), ?_⟩, ?_⟩, fun hf => ?_, fun hn => ?_,
    fun hn => ?_⟩
  · rw [Option.getD_none, toNat_encode_instr (by simp [hf, Form.fieldWidth]), BitVec.toNat_zero, Nat.add_zero]
  · exact assemble_eq_none (by simp [wellFormed_some_iff, hf, Form.capacity])
  · exact assemble_eq_none (mt wellFormed_none_iff.mp hf)
  · apply assemble_some
    obtain ⟨hf, hn⟩ | ⟨hf, hn⟩ | ⟨hf, hn⟩ := hn <;> simp only [hf, Form.capacity] <;> omega
  · refine assemble_eq_none (mt wellFormed_some_iff.mp ?_)
    obtain ⟨hf, hn⟩ | ⟨hf, hn⟩ | ⟨hf, hn⟩ := hn <;> simp only [hf, Form.capacity] <;> omega

end Sys2Proof

namespace Sys2Proof.Machine

/-! ## The reading of a word by its fields, as numbers (R70, R71, R75) -/

theorem bits_eq_opField_iff {o : Opcode} {w : Word} : o.bits = opField w ↔ o.bits.toNat = w.toNat / 2 ^ 24 := by
  rw [← BitVec.toNat_inj, toNat_opField]

theorem decode_eq_cmd_iff_fields {w : Word} {i : Instr} :
    decode w = .cmd i ↔ i.opcode.bits.toNat = w.toNat / 2 ^ 24 ∧ formReservedField i.opcode.form w = 0 ∧
      i.operand = formOperandField i.opcode.form w := by
  rw [decode_eq_cmd_iff, bits_eq_opField_iff, formReservedField_eq_zero_iff, instr_immField_eq_iff]

theorem decode_eq_reserved_iff_fields {w : Word} :
    decode w = .reserved ↔ ∃ o : Opcode, o.bits.toNat = w.toNat / 2 ^ 24 ∧ formReservedField o.form w ≠ 0 := by
  simp only [decode_eq_reserved_iff, bits_eq_opField_iff, ne_eq, formReservedField_eq_zero_iff]

theorem decode_eq_illegal_iff_fields {w : Word} :
    decode w = .illegal ↔ ∀ o : Opcode, o.bits.toNat ≠ w.toNat / 2 ^ 24 := by
  simp only [decode_eq_illegal_iff, ne_eq, bits_eq_opField_iff]

/-! ## The error of a word that is no command (R73, R75, R204) -/

section
variable {s : State} {w : Word} (hw : s.pending = some w) (he : s.err = .noError)
include hw he

theorem rejectWord_latches (e : Err) : rejectWord e s = .next (s.latches e w) := by
  obtain ⟨hne, -⟩ | ⟨-, hr⟩ := rejectWord_cases e s
  · exact absurd he hne
  · rw [hr, raiseError_eq_latches hw]

theorem complete_illegal (h : decode w = .illegal) : complete w s = .next (s.latches .illegalOp w) := by
  rw [complete, h]
  exact rejectWord_latches hw he _

theorem complete_reserved (h : decode w = .reserved) : complete w s = .next (s.latches .reservedField w) := by
  rw [complete, h]
  exact rejectWord_latches hw he _

end

/-- Settles O2: the readings by fields, and the errors of the two that are no command. -/
theorem everyWordHasTheReadingOfItsFields : Obligations.EveryWordHasTheReadingOfItsFields :=
  ⟨fun _ => ⟨fun _ => decode_eq_cmd_iff_fields, decode_eq_reserved_iff_fields, decode_eq_illegal_iff_fields⟩,
   fun _ _ hw he => ⟨complete_illegal hw he, complete_reserved hw he⟩⟩

/-- Settles O6: such a word decodes as illegal or reserved, whatever the phase. -/
theorem wordsThatAreNoCommandLatchTheirError : Obligations.WordsThatAreNoCommandLatchTheirError :=
  fun _ _ hw he =>
    ⟨fun hop => complete_illegal hw he (decode_eq_illegal_iff_fields.mpr hop),
     fun o hop hres => complete_reserved hw he (decode_eq_reserved_iff_fields.mpr ⟨o, hop, hres⟩)⟩

end Sys2Proof.Machine
end

section
/-! SUPPORT. The statements about control: the sequencer's step and what completions leave unchanged (R24, R25, R90),
NOP and CLEAR (R91, R92). -/

namespace Sys2Proof.Machine

/-! ## The sequencer's step (R90, R232) -/

theorem step_sequencer {s : State} {w : Word} (hw : s.pending = some w) (ht : s.todo = [] ∨ s.delay = 0) :
    step s = complete w s := by
  simp [step, turn_sequencer hw ht]

theorem complete_cmd {w : Word} {i : Instr} (h : decode w = .cmd i) (s : State) : complete w s = exec i s := by
  simp [complete, h]

/-- Settles O5: the sequencer's turn completes the pending word, and the completion of a command is `exec`. -/
theorem stepOfThePendingCommandIsExec : Obligations.StepOfThePendingCommandIsExec :=
  fun s _ _ hw ht hd => (step_sequencer hw ht).trans (complete_cmd hd s)

/-! ## The operands, the build and the host's own fields (R24, R25, R208) -/

/-- `t` has the build, CMD, the ARG registers, OVR and the host's script of `s`: what no completion but CLEAR's
changes. -/
structure State.SameHost (s t : State) : Prop where
  build : t.build = s.build
  cmd   : t.cmd = s.cmd
  arg0  : t.arg0 = s.arg0
  arg1  : t.arg1 = s.arg1
  arg2  : t.arg2 = s.arg2
  ovr   : t.ovr = s.ovr
  todo  : t.todo = s.todo
  seen  : t.seen = s.seen
  delay : t.delay = s.delay
  draws : t.draws = s.draws

theorem State.SameHost.refl (s : State) : s.SameHost s := ⟨rfl, rfl, rfl, rfl, rfl, rfl, rfl, rfl, rfl, rfl⟩

theorem State.SameHost.trans {s t u : State} (h : s.SameHost t) (h' : t.SameHost u) : s.SameHost u :=
  ⟨h'.build.trans h.build, h'.cmd.trans h.cmd, h'.arg0.trans h.arg0, h'.arg1.trans h.arg1, h'.arg2.trans h.arg2,
   h'.ovr.trans h.ovr, h'.todo.trans h.todo, h'.seen.trans h.seen, h'.delay.trans h.delay, h'.draws.trans h.draws⟩

theorem sameHost_finish (b : Bool) (s : State) : s.SameHost (finish b s) :=
  ⟨rfl, rfl, rfl, rfl, rfl, rfl, rfl, rfl, rfl, rfl⟩

theorem sameHost_raiseError (e : Err) (s : State) : s.SameHost (raiseError e s) :=
  ⟨rfl, rfl, rfl, rfl, rfl, rfl, rfl, rfl, rfl, rfl⟩

theorem sameHost_heapInit (s : State) : s.SameHost (heapInit s) := by
  unfold heapInit
  split <;> exact ⟨rfl, rfl, rfl, rfl, rfl, rfl, rfl, rfl, rfl, rfl⟩

theorem sameHost_joinNodes (x y : Index) (rest : List Index) (s : State) : s.SameHost (joinNodes x y rest s) := by
  simp only [joinNodes]
  split <;> exact ⟨rfl, rfl, rfl, rfl, rfl, rfl, rfl, rfl, rfl, rfl⟩

theorem sameHost_mergeOnce {s t : State} (h : mergeOnce s = some t) : s.SameHost t := by
  obtain ⟨x, y, -, rest, -, -, -, rfl⟩ := mergeOnce_some h
  exact sameHost_joinNodes x y rest s

theorem sameHost_bodyBuild {s t : State} (ha : accepts s.phase .build = true) (h : (bodyBuild s).left = some t) :
    s.SameHost t :=
  bodyBuild_keeps (P := s.SameHost) ha (fun _ => sameHost_heapInit s) (fun _ => .refl s)
    (fun _ hm hs => hs.trans (sameHost_mergeOnce hm)) h

/-- Only CLEAR, which zeroes OVR, changes anything on the host's side. -/
theorem sameHost_effect {i : Instr} {emits : Bool} {s u : State} (h : s.Effect i emits u) :
    s.SameHost u ∨ (i = .clear ∧ u = clearBlock s) := by
  cases h with
  | clear => exact .inr ⟨rfl, rfl⟩
  | heapinit _ => exact .inl (sameHost_heapInit s)
  | merge _ h => exact .inl (sameHost_mergeOnce h)
  | build ha h => exact .inl (sameHost_bodyBuild ha h)
  | unchanged | bump | add | gentable | results | append | emit | ldbegin | ldent | ldend =>
    exact .inl ⟨rfl, rfl, rfl, rfl, rfl, rfl, rfl, rfl, rfl, rfl⟩

theorem encode_clear : encode .clear = 0x01000000#32 := by decide

/-- A completion leaves the host's side, or it is CLEAR's. -/
theorem complete_sameHost {w : Word} {s t : State} (h : complete w s = .next t) :
    s.SameHost t ∨ (w = 0x01000000#32 ∧ ∃ emits, t = finish emits (clearBlock s)) := by
  obtain rfl | ⟨e, -, rfl⟩ | ⟨i, hw, -, emits, u, hu, rfl⟩ := complete_effect h
  · exact .inl (sameHost_finish false s)
  · exact .inl (sameHost_raiseError e s)
  · obtain hs | ⟨rfl, rfl⟩ := sameHost_effect hu
    · exact .inl (hs.trans (sameHost_finish emits u))
    · exact .inr ⟨(decode_eq_cmd_iff_encode.mp hw).symm.trans encode_clear, emits, rfl⟩

theorem complete_pending {w : Word} {s t : State} (h : complete w s = .next t) : t.pending = none := by
  obtain rfl | ⟨e, -, rfl⟩ | ⟨i, -, -, emits, u, -, rfl⟩ := complete_effect h <;> rfl

/-- Settles O12: CLEAR keeps all of the host's side but OVR, every other completion keeps OVR too. -/
theorem completionsKeepOperandsAndHost : Obligations.CompletionsKeepOperandsAndHost := by
  intro s t w h
  refine ⟨complete_pending h, ?_⟩
  obtain hs | ⟨rfl, emits, rfl⟩ := complete_sameHost h
  · exact ⟨hs.cmd, hs.arg0, hs.arg1, hs.arg2, hs.build, hs.todo, hs.seen, hs.delay, hs.draws, .inl hs.ovr⟩
  · exact ⟨rfl, rfl, rfl, rfl, rfl, rfl, rfl, rfl, rfl, .inr rfl⟩

/-! ## NOP and CLEAR (R91, R92) -/

/-- A command that runs while an error is latched, in a phase that accepts it, always has its body run. -/
theorem command_runsLatched {i : Instr} (body : State → Body) {s : State} (hrun : runsLatched i = true)
    (ha : accepts s.phase i = true) : command i body s = completeBody s (body s) := by
  simp [command, hrun, ha]

theorem exec_nop (s : State) : exec .nop s = .next (finish false s) :=
  command_runsLatched bodyNop rfl rfl

theorem exec_clear (s : State) : exec .clear s = .next (finish false (clearBlock s)) :=
  command_runsLatched bodyClear rfl rfl

theorem rejectWord_drops {s : State} (he : s.err ≠ .noError) (e : Err) : rejectWord e s = .next (finish false s) := by
  obtain ⟨-, hr⟩ | ⟨hne, -⟩ := rejectWord_cases e s
  · exact hr
  · exact absurd hne he

/-- IMM of a command without an operand is all reserved (R71). -/
theorem decode_reserved_of_imm {o : Opcode} {w : Word} (hf : o.form = .none) (hop : w.toNat / 2 ^ 24 = o.bits.toNat)
    (himm : w.toNat % 2 ^ 24 ≠ 0) : decode w = .reserved :=
  decode_eq_reserved_iff_fields.mpr ⟨o, hop.symm, by rwa [hf]⟩

/-- The word of a command without an operand, with IMM not 0, is an error, or dropped while one is latched. -/
theorem complete_of_imm {o : Opcode} (hf : o.form = .none) {s : State} {w : Word} (hw : s.pending = some w)
    (hop : w.toNat / 2 ^ 24 = o.bits.toNat) (himm : w.toNat % 2 ^ 24 ≠ 0) :
    (s.err = .noError → complete w s = .next (s.latches .reservedField w)) ∧
    (s.err ≠ .noError → complete w s = .next (finish false s)) := by
  have hd := decode_reserved_of_imm hf hop himm
  refine ⟨fun he => complete_reserved hw he hd, fun he => ?_⟩
  rw [complete, hd]
  exact rejectWord_drops he _

/-- Settles O15: NOP's body leaves the state to the end of R90, and its IMM is reserved. -/
theorem nopChangesOnlySymv : Obligations.NopChangesOnlySymv :=
  ⟨by decide, exec_nop, fun _ _ => complete_of_imm (o := .nop) rfl⟩

/-- Settles O16: CLEAR's body is `clearBlock`, and its IMM is reserved. -/
theorem clearEmptiesTheBlock : Obligations.ClearEmptiesTheBlock :=
  ⟨by decide, exec_clear, fun _ _ => complete_of_imm (o := .clear) rfl⟩

end Sys2Proof.Machine
end

section
/-! SUPPORT. The statements about counting (R100, R101), and what a driver's command does (R185). -/

namespace Sys2Proof.Machine

/-! ## A command completed by its body (R90) -/

theorem exec_ready {i : Instr} {s : State} (he : s.err = .noError) (ha : accepts s.phase i = true) :
    exec i s = completeBody s (bodyOf i s) := by
  rw [exec_eq_command, command_ready he ha]

theorem exec_raises {i : Instr} {s : State} {w : Word} {e : Err} (hw : s.pending = some w) (he : s.err = .noError)
    (ha : accepts s.phase i = true) (hb : bodyOf i s = .raises e) : exec i s = .next (s.latches e w) := by
  rw [exec_ready he ha, hb, completeBody, raiseError_eq_latches hw]

theorem exec_done {i : Instr} {s u : State} (he : s.err = .noError) (ha : accepts s.phase i = true)
    (hb : bodyOf i s = .done u) : exec i s = .next (finish false u) := by
  rw [exec_ready he ha, hb, completeBody]

/-- A command that ends without an error had its body run. -/
theorem exec_succeeds {i : Instr} {s t : State} (he : s.err = .noError) (h : exec i s = .next t)
    (ht : t.err = .noError) :
    accepts s.phase i = true ∧ ∃ emits u, (bodyOf i s).Answers emits u ∧ t = finish emits u := by
  obtain ⟨hne, -, -⟩ | ⟨e, hne, rfl⟩ | ⟨-, ha, hb⟩ := exec_next h
  · exact absurd he hne
  · exact absurd ht hne
  · exact ⟨ha, hb⟩

/-! ## A command of the driver (R185, R236) -/

theorem writeReg_cmd_idle {s : State} (hp : s.pending = none) (w : Word) : writeReg .cmd w s = issueCommand w s := by
  simp [writeReg, State.busy, hp]

theorem complete_encode (i : Instr) (s : State) : complete (encode i) s = exec i s :=
  complete_cmd (decode_eq_cmd_iff_encode.mpr rfl) s

/-- A driver's command that succeeds is the completion of its word, without an error. -/
theorem runCommand_ok {i : Instr} {s t : State} (hp : s.pending = none) (h : runCommand i s = .ok t) :
    exec i (issueCommand (encode i) s) = .next t ∧ t.err = .noError := by
  simp only [runCommand, writeReg_cmd_idle hp, completed, issueCommand_pending, complete_encode] at h
  cases hx : exec i (issueCommand (encode i) s) with
  | next u =>
    rw [hx] at h
    by_cases hu : u.err = .noError
    · obtain rfl : u = t := by simpa [hu] using h
      exact ⟨rfl, hu⟩
    · simp [hu] at h
  | fault f => simp [hx] at h
  | refused r => simp [hx] at h

theorem runCommands_cons_ok {i : Instr} {is : List Instr} {s u : State} (h : runCommands (i :: is) s = .ok u) :
    ∃ t, runCommand i s = .ok t ∧ runCommands is t = .ok u := by
  rw [runCommands] at h
  cases hx : runCommand i s with
  | error e => simp [hx] at h
  | ok t => exact ⟨t, rfl, by simpa [hx] using h⟩

/-! ## The tables' checks (R9, R31) -/

theorem isSymbol_iff {sym : Symbol} : isSymbol sym = true ↔ sym.toNat ≤ 0x10FFFF := by
  simp [isSymbol, Config.maxSymbol, BitVec.le_def]

theorem hasSymbol_iff {sym : Symbol} {freq : List FreqEntry} :
    hasSymbol sym freq = true ↔ sym ∈ freq.map FreqEntry.sym := by
  simp [hasSymbol]

/-- The entry a bump changes is the first of its symbol. -/
theorem bumpCount_eq_set {sym : Symbol} {freq : List FreqEntry} {k : Nat} {c : Word}
    (hk : freq[k]? = some { sym := sym, count := c })
    (hfirst : ∀ j e, j < k → freq[j]? = some e → e.sym ≠ sym) :
    bumpCount sym freq = freq.set k { sym := sym, count := c + 1#32 } := by
  induction freq generalizing k with
  | nil => simp at hk
  | cons e es ih =>
    cases k with
    | zero =>
      obtain rfl : e = { sym := sym, count := c } := by simpa using hk
      simp [bumpCount]
    | succ k =>
      have hne : e.sym ≠ sym := hfirst 0 e (by omega) rfl
      have hes := ih (by simpa using hk) fun j f hj hf => hfirst (j + 1) f (by omega) (by simpa using hf)
      simp [bumpCount, hne, hes]

/-- Where no symbol has two entries (R31), a bump changes every entry of its symbol. -/
theorem bumpCount_eq_map {sym : Symbol} {freq : List FreqEntry} (hd : (freq.map FreqEntry.sym).Nodup) :
    bumpCount sym freq = freq.map fun e => if e.sym = sym then { e with count := e.count + 1#32 } else e := by
  induction freq with
  | nil => rfl
  | cons e es ih =>
    obtain ⟨he, hes⟩ := List.nodup_cons.mp hd
    by_cases h : e.sym = sym
    · have hrest : ∀ f ∈ es, (if f.sym = sym then { f with count := f.count + 1#32 } else f) = f := fun f hf =>
        if_neg fun hfs => he (List.mem_map.mpr ⟨f, hf, hfs.trans h.symm⟩)
      simp [bumpCount, h, List.map_congr_left hrest]
    · simp [bumpCount, h, ih hes]

/-! ## COUNT (R100) -/

theorem toNat_encode_count (sym : Symbol) : (encode (.count sym)).toNat = 0x10000000 + sym.toNat := by
  simpa [toNat_encode, Instr.opcode, Opcode.bits, Instr.imm] using sym.isLt.trans (by decide : 2 ^ 21 < 2 ^ 24)

section
variable {sym : Symbol} {s : State}

theorem bodyCount_invalid (hsym : isSymbol sym = false) : bodyCount sym s = .raises .invalidSymbol := by
  simp [bodyCount, hsym]

variable (hsym : isSymbol sym = true)
include hsym

theorem bodyCount_old (hold : hasSymbol sym s.freq = true) :
    bodyCount sym s = if s.total = 0xFFFFFFFF#32 then .raises .countOverflow
      else .done { s with freq := bumpCount sym s.freq, total := s.total + 1#32 } := by
  simp [bodyCount, hsym, hold]

theorem bodyCount_new (hnew : hasSymbol sym s.freq = false) :
    bodyCount sym s = if s.build.nMax ≤ s.freq.length then .raises .tableFull
      else if s.total = 0xFFFFFFFF#32 then .raises .countOverflow
      else .done { s with freq := s.freq ++ [{ sym := sym, count := 1#32 }], total := s.total + 1#32 } := by
  simp [bodyCount, hsym, hnew]

end

/-- Settles O17: the checks of COUNT's body in their order, first for a symbol of the table, then for a new one. -/
theorem countAddsOneOccurrence : Obligations.CountAddsOneOccurrence := by
  refine ⟨toNat_encode_count, fun s w sym hw he => ⟨fun hp => ?_, fun hp hbig => ?_, fun hp hle => ?_⟩⟩
  · exact exec_outOfPhase hw he (by simpa [accepts] using hp)
  all_goals have ha : accepts s.phase (.count sym) = true := by simpa [accepts] using hp
  · have hsym : isSymbol sym = false := by simpa [← isSymbol_iff] using not_le.mpr hbig
    exact exec_raises hw he ha (bodyCount_invalid hsym)
  have hsym := isSymbol_iff.mpr hle
  refine ⟨fun k c hk hfirst => ?_, fun hne => ?_⟩
  · have hbody := bodyCount_old hsym (hasSymbol_iff.mpr (List.mem_map_of_mem (List.mem_of_getElem? hk)))
    rw [bumpCount_eq_set hk hfirst] at hbody
    exact ⟨fun ht => exec_raises hw he ha (hbody.trans (if_pos ht)),
      fun ht => exec_done he ha (hbody.trans (if_neg ht))⟩
  · have hbody := bodyCount_new (s := s) hsym (by simpa [hasSymbol] using hne)
    refine ⟨fun hfull => ?_, fun hroom ht => ?_, fun hroom ht => ?_⟩
    · exact exec_raises hw he ha (hbody.trans (if_pos hfull))
    all_goals rw [if_neg (not_le.mpr hroom)] at hbody
    · exact exec_raises hw he ha (hbody.trans (if_pos ht))
    · exact exec_done he ha (hbody.trans (if_neg ht))

/-! ## Counting a text (R101) -/

/-- The frequency table of a text: its symbols in first-occurrence order with their numbers of occurrences. -/
structure State.Counted (s : State) (text : List Symbol) : Prop where
  symbols : s.freq.map FreqEntry.sym = text.reverse.dedup.reverse
  counts  : ∀ e ∈ s.freq, e.count.toNat = text.count e.sym
  total   : s.total.toNat = text.length

namespace State.Counted

theorem nil {s : State} (hf : s.freq = []) (ht : s.total = 0#32) : s.Counted [] := by
  constructor <;> simp [hf, ht]

theorem of_eq {s t : State} {text : List Symbol} (h : s.Counted text) (hf : t.freq = s.freq)
    (ht : t.total = s.total) : t.Counted text := by
  obtain ⟨h1, h2, h3⟩ := h
  constructor <;> simpa only [hf, ht]

variable {s : State} {text : List Symbol} {sym : Symbol} (h : s.Counted text)
include h

theorem distinct : (s.freq.map FreqEntry.sym).Nodup := by
  rw [h.symbols, List.nodup_reverse]
  exact List.nodup_dedup _

theorem hasSymbol_iff_mem : hasSymbol sym s.freq = true ↔ sym ∈ text := by
  rw [hasSymbol_iff, h.symbols, List.mem_reverse, List.mem_dedup, List.mem_reverse]

variable (htotal : s.total ≠ 0xFFFFFFFF#32)
include htotal

/-- Another occurrence of a symbol of the table. -/
theorem bump (hold : hasSymbol sym s.freq = true) :
    ({ s with freq := bumpCount sym s.freq, total := s.total + 1#32 } : State).Counted (text ++ [sym]) := by
  have htot := toNat_total_succ htotal
  have hmem : sym ∈ text.reverse := List.mem_reverse.mpr (h.hasSymbol_iff_mem.mp hold)
  refine ⟨by simpa [map_sym_bumpCount, hmem] using h.symbols, fun e he => ?_, by simp [htot, h.total]⟩
  rw [bumpCount_eq_map h.distinct] at he
  obtain ⟨f, hf, rfl⟩ := List.mem_map.mp he
  have hcount := h.counts f hf
  by_cases hfs : f.sym = sym
  · have hlt : f.count.toNat + 1 < 2 ^ 32 := by
      have := text.count_le_length (a := f.sym)
      have := h.total
      omega
    simpa [hfs, toNat_add_one hlt] using hcount
  · simp [hfs, hcount, Ne.symm hfs]

/-- The first occurrence of a symbol. -/
theorem add (hnew : hasSymbol sym s.freq = false) :
    ({ s with freq := s.freq ++ [{ sym := sym, count := 1#32 }], total := s.total + 1#32 } : State).Counted
      (text ++ [sym]) := by
  have hnot : sym ∉ text := by simpa [← h.hasSymbol_iff_mem] using hnew
  have hne : ∀ e ∈ s.freq, e.sym ≠ sym := by simpa [hasSymbol] using hnew
  refine ⟨?_, fun e he => ?_, by simp [toNat_total_succ htotal, h.total]⟩
  · simp [h.symbols, List.dedup_cons_of_notMem (mt List.mem_reverse.mp hnot)]
  · obtain he | rfl : e ∈ s.freq ∨ e = { sym := sym, count := 1#32 } := by simpa using he
    · simp [h.counts e he, (hne e he).symm]
    · simp [List.count_eq_zero_of_not_mem hnot]

end State.Counted

/-- COUNT of a symbol after a text counts the text with the symbol at its end. -/
theorem counted_runCommand {s t : State} {text : List Symbol} {sym : Symbol} (hs : s.Counted text)
    (hp : s.pending = none) (he : s.err = .noError) (h : runCommand (.count sym) s = .ok t) :
    t.Counted (text ++ [sym]) ∧ t.pending = none ∧ t.err = .noError := by
  obtain ⟨hx, ht⟩ := runCommand_ok hp h
  obtain ⟨-, emits, u, hu, rfl⟩ := exec_succeeds (s := issueCommand _ s) he hx ht
  have hs' : (issueCommand (encode (.count sym)) s).Counted text := hs.of_eq rfl rfl
  refine ⟨State.Counted.of_eq (s := u) ?_ rfl rfl, rfl, ht⟩
  obtain ⟨-, htotal, ⟨hold, rfl⟩ | ⟨hnew, -, rfl⟩⟩ := bodyCount_left hu.left
  · exact hs'.bump htotal hold
  · exact hs'.add htotal hnew

theorem counted_runCommands {s t : State} {before text : List Symbol} (hs : s.Counted before)
    (hp : s.pending = none) (he : s.err = .noError) (h : runCommands (text.map .count) s = .ok t) :
    t.Counted (before ++ text) := by
  induction text generalizing s before with
  | nil =>
    obtain rfl : s = t := by simpa [runCommands] using h
    simpa using hs
  | cons sym text ih =>
    obtain ⟨u, hu, hrest⟩ := runCommands_cons_ok h
    obtain ⟨hs', hp', he'⟩ := counted_runCommand hs hp he hu
    simpa using ih hs' hp' he' hrest

/-- Settles O18, by induction on the text with the text already counted before it. -/
theorem countingGivesFirstOccurrenceOrder : Obligations.CountingGivesFirstOccurrenceOrder := by
  intro s t text hf ht hp he h
  obtain ⟨hsymbols, hcounts, htotal⟩ := counted_runCommands (.nil hf ht) hp he h
  exact ⟨hsymbols, hcounts, htotal⟩

end Sys2Proof.Machine
end

section
/-! SUPPORT. The statements about tree building (R110-R115). -/

namespace Sys2Proof.Machine

/-! ## Key order and extraction (R111) -/

theorem keyBefore_iff {nodes : List Node} {j k : Index} : keyBefore nodes j k = true ↔ KeyLess nodes j k := by
  simp [keyBefore, KeyLess]

theorem KeyLess.asymm {nodes : List Node} {j k : Index} (h : KeyLess nodes j k) : ¬ KeyLess nodes k j := by
  unfold KeyLess at *; omega

theorem not_keyLess_self (nodes : List Node) (k : Index) : ¬ KeyLess nodes k k := fun h => h.asymm h

theorem not_keyLess_trans {nodes : List Node} {i j k : Index} (h : ¬ KeyLess nodes i j) (h' : ¬ KeyLess nodes j k) :
    ¬ KeyLess nodes i k := by
  unfold KeyLess at *; omega

/-- No two different indices have the same key. -/
theorem keyLess_of_not_keyLess {nodes : List Node} {j k : Index} (hne : j ≠ k) (h : ¬ KeyLess nodes j k) :
    KeyLess nodes k j := by
  have : j.toNat ≠ k.toNat := fun h => hne (BitVec.eq_of_toNat_eq h)
  unfold KeyLess at *; omega

theorem not_keyLess_leastMember {nodes : List Node} {heap : List Index} {x : Index}
    (h : leastMember nodes heap = some x) : ∀ k ∈ heap, ¬ KeyLess nodes k x := by
  induction heap generalizing x with
  | nil => simp
  | cons j js ih =>
    rw [List.forall_mem_cons]
    simp only [leastMember] at h
    split at h
    next hm =>
      obtain rfl := Option.some.inj h
      simp [leastMember_eq_none.mp hm, not_keyLess_self]
    next m hm =>
      split at h
      next hlt =>
        obtain rfl := Option.some.inj h
        exact ⟨(keyBefore_iff.mp hlt).asymm, ih hm⟩
      next hlt =>
        obtain rfl := Option.some.inj h
        exact ⟨not_keyLess_self nodes j, fun k hk => not_keyLess_trans (ih hm k hk) (mt keyBefore_iff.mpr hlt)⟩

/-- A heap that is not empty gives its least member. -/
theorem extractMin_least {nodes : List Node} {heap : List Index} (h : heap ≠ []) :
    ∃ x, extractMin nodes heap = some (x, heap.erase x) ∧ x ∈ heap ∧ ∀ k ∈ heap, k ≠ x → KeyLess nodes x k := by
  obtain ⟨x, hx⟩ := Option.ne_none_iff_exists'.mp (mt leastMember_eq_none.mp h : leastMember nodes heap ≠ none)
  exact ⟨x, by simp [extractMin, hx], leastMember_mem hx,
    fun k hk hne => keyLess_of_not_keyLess hne (not_keyLess_leastMember hx k hk)⟩

/-- Settles O20: two least members of one set come before each other, so they are one. -/
theorem extractMinTakesTheLeastKey : Obligations.ExtractMinTakesTheLeastKey := by
  refine fun nodes heap => ⟨extractMin_least, fun heap' hperm => ?_⟩
  obtain rfl | hne := eq_or_ne heap []
  · rw [List.nil_perm.mp hperm]
  obtain ⟨x, hx, hmem, hleast⟩ := extractMin_least (nodes := nodes) hne
  obtain ⟨y, hy, hmem', hleast'⟩ := extractMin_least (nodes := nodes) (mt (fun h => List.perm_nil.mp (h ▸ hperm)) hne)
  have hyx : y = x := by
    by_contra hyx
    exact (hleast y (hperm.mem_iff.mpr hmem') hyx).asymm (hleast' x (hperm.mem_iff.mp hmem) (Ne.symm hyx))
  simp [hx, hy, hyx]

/-! ## HEAPINIT (R110) -/

/-- HEAPINIT changes the arena, the heap, ROOT and PHASE alone. -/
theorem heapInit_frame (s : State) : heapInit s = { s with
    node := (heapInit s).node, heap := (heapInit s).heap, root := (heapInit s).root, phase := (heapInit s).phase } := by
  unfold heapInit; split <;> rfl

theorem exec_heapinit {s : State} (hp : s.phase = .count) (he : s.err = .noError) :
    exec .heapinit s = .next (finish false (heapInit s)) :=
  exec_done he (by simp [accepts, hp]) rfl

/-- Settles O19, from what HEAPINIT leaves in each field. -/
theorem heapinitMakesTheLeaves : Obligations.HeapinitMakesTheLeaves := by
  refine ⟨by decide, fun s w hw he => ⟨fun hp => exec_outOfPhase hw he (by simpa [accepts] using hp), fun hp => ?_⟩⟩
  rw [exec_heapinit hp he, heapInit_frame, heapInit_node, heapInit_heap, heapInit_root, heapInit_phase]
  rfl

/-! ## MERGE (R112, R113) -/

section
variable {s : State} {x y : Index} {rest : List Index}

/-- MERGE changes the arena, the heap, ROOT, PHASE and the results alone. -/
theorem joinNodes_frame : joinNodes x y rest s = { s with
    node := (joinNodes x y rest s).node, heap := (joinNodes x y rest s).heap, root := (joinNodes x y rest s).root,
    phase := (joinNodes x y rest s).phase, res0 := (joinNodes x y rest s).res0, res1 := (joinNodes x y rest s).res1,
    res2 := (joinNodes x y rest s).res2 } := by
  simp only [joinNodes]; split <;> rfl

@[simp] theorem joinNodes_res0 :
    (joinNodes x y rest s).res0 = BitVec.ofNat 32 (weightAt s.node x + weightAt s.node y) := by
  simp only [joinNodes]; split <;> rfl

@[simp] theorem joinNodes_res1 : (joinNodes x y rest s).res1 = zext32 x := by simp only [joinNodes]; split <;> rfl

@[simp] theorem joinNodes_res2 : (joinNodes x y rest s).res2 = zext32 y := by simp only [joinNodes]; split <;> rfl

/-- The joined node is no member of a heap of live nodes, so it makes one member more. -/
theorem length_joinNodes_heap (hlive : ∀ k ∈ rest, k.toNat < s.node.length) (hn : s.node.length < 2 ^ 16) :
    (joinNodes x y rest s).heap.length = rest.length + 1 := by
  rw [joinNodes_heap]
  refine (perm_heapInsert fun hmem => ?_).length_eq
  have := hlive _ hmem
  rw [toNat_ofNat_of_lt hn] at this
  omega

end

theorem heapLive_iff {nodes : List Node} {heap : List Index} :
    heapLive nodes heap = true ↔ ∀ k ∈ heap, k.toNat < nodes.length := by
  simp [heapLive]

/-- `x` and `y` are the first and the second member that a merge extracts, and `rest` is the heap without them
(R111, R112). -/
structure State.Extracts (s : State) (x y : Index) (rest : List Index) : Prop where
  first  : x ∈ s.heap
  second : y ∈ s.heap
  ne     : x ≠ y
  least  : ∀ k ∈ s.heap, k ≠ x → KeyLess s.node x k
  next   : ∀ k ∈ s.heap, k ≠ x → k ≠ y → KeyLess s.node y k
  kept   : ∀ k, k ∈ rest ↔ k ∈ s.heap ∧ k ≠ x ∧ k ≠ y
  length : rest.length = s.heap.length - 2

/-- A merge of a heap with two live members extracts them and joins them. -/
theorem mergeOnce_extracts {s : State} (hlive : ∀ k ∈ s.heap, k.toNat < s.node.length) (hd : s.heap.Nodup)
    (h2 : 2 ≤ s.heap.length) :
    ∃ x y rest, s.Extracts x y rest ∧ mergeOnce s = some (joinNodes x y rest s) := by
  have hpos : 0 < s.heap.length := by omega
  obtain ⟨x, hx, hxm, hxleast⟩ := extractMin_least (nodes := s.node) (List.length_pos_iff.mp hpos)
  have hlen := List.length_erase_of_mem hxm
  have hpos' : 0 < (s.heap.erase x).length := by omega
  obtain ⟨y, hy, hym, hyleast⟩ := extractMin_least (nodes := s.node) (List.length_pos_iff.mp hpos')
  obtain ⟨hyx, hyh⟩ := hd.mem_erase_iff.mp hym
  refine ⟨x, y, (s.heap.erase x).erase y, ⟨hxm, hyh, hyx.symm, hxleast, fun k hk hkx => ?_, fun k => ?_, ?_⟩, ?_⟩
  · exact hyleast k (hd.mem_erase_iff.mpr ⟨hkx, hk⟩)
  · rw [(hd.erase x).mem_erase_iff, hd.mem_erase_iff]; tauto
  · rw [List.length_erase_of_mem hym]; omega
  · simp [mergeOnce, heapLive_iff.mpr hlive, hx, hy]

theorem ready_merge_iff {s : State} : s.Ready .merge ↔ s.err = .noError ∧ s.phase = .merge := by
  simp [State.Ready, accepts]

theorem exec_merge {s t : State} (hr : s.Ready .merge) (h : mergeOnce s = some t) :
    exec .merge s = .next (finish false t) :=
  exec_done hr.1 hr.2 (by simp [bodyOf, bodyMerge, h])

/-- Settles O21, from the two least members and the fields of the joined state. -/
theorem mergeJoinsTheTwoLightest : Obligations.MergeJoinsTheTwoLightest := by
  refine ⟨by decide, fun s w hw he => ⟨fun hp => exec_outOfPhase hw he (by simpa [accepts] using hp),
    fun hp hlive hd h2 hn => ?_⟩⟩
  obtain ⟨x, y, rest, hpair, hm⟩ := mergeOnce_extracts hlive hd h2
  have hlen := length_joinNodes_heap (x := x) (y := y) (fun k hk => hlive k ((hpair.kept k).mp hk).1) hn
  rw [hpair.length] at hlen
  refine ⟨x, y, _, hpair.first, hpair.second, hpair.ne, hpair.least, hpair.next,
    exec_merge (ready_merge_iff.mpr ⟨he, hp⟩) hm, joinNodes_node .., fun k => ?_, ?_, joinNodes_res0, ?_, ?_,
    fun hlast => joinNodes_of_last (by omega),
    fun hmore => (joinNodes_of_not_last (by omega)).imp_right fun h => h.trans hp, ?_⟩
  · rw [finish_heap, joinNodes_heap, mem_heapInsert, hpair.kept, or_comm]
  · rw [finish_heap]; omega
  · exact (congrArg BitVec.toNat joinNodes_res1).trans (BitVec.toNat_setWidth_of_le (by decide))
  · exact (congrArg BitVec.toNat joinNodes_res2).trans (BitVec.toNat_setWidth_of_le (by decide))
  · conv_lhs => rw [joinNodes_frame]
    rfl

section
variable {s : State} (hs : s.TreeInv) (hp : s.phase = .merge)
include hs hp

/-- In P_MERGE of the invariant the arena has room for one node more. -/
theorem node_length_lt : s.node.length < 2 ^ 16 := by
  obtain ⟨hf, h2, -⟩ := (treeOk_merge hp).mp hs.tree
  have := hf.heap_length_add
  have := hs.freq_length_le
  omega

/-- In P_MERGE of the invariant a merge is never stuck. -/
theorem exists_mergeOnce : ∃ t, mergeOnce s = some t := by
  obtain ⟨hf, h2, -⟩ := (treeOk_merge hp).mp hs.tree
  obtain ⟨x, y, rest, -, h⟩ := mergeOnce_extracts (fun k hk => hf.lt_of_mem_heap hk) hf.nodup_heap h2
  exact ⟨_, h⟩

/-- A merge takes one member out of the heap, and ends the phase when one is left. -/
theorem mergeOnce_heap {t : State} (h : mergeOnce s = some t) :
    t.heap.length + 1 = s.heap.length ∧ t.phase = if t.heap.length = 1 then .tree else .merge := by
  obtain ⟨hf, -⟩ := (treeOk_merge hp).mp hs.tree
  obtain ⟨x, y, rest, hperm, -, rfl⟩ := mergeOnce_perm hf.rising h
  have hnew := (perm_joinNodes_heap hf hperm (node_length_lt hs hp)).length_eq
  refine ⟨by simpa [hperm.length_eq] using hnew, ?_⟩
  split
  next hone => exact (joinNodes_of_last hone).2
  next hone => exact (joinNodes_of_not_last hone).2.trans hp

end

/-- Settles O22, from the sum of the heap's weights in the invariant. -/
theorem mergeWeightIsExact : Obligations.MergeWeightIsExact := by
  intro s hs hr
  obtain ⟨-, hp⟩ := ready_merge_iff.mp hr
  obtain ⟨hf, -⟩ := (treeOk_merge hp).mp hs.tree
  obtain ⟨t, ht⟩ := exists_mergeOnce hs hp
  obtain ⟨x, y, rest, hperm, -, rfl⟩ := mergeOnce_perm hf.rising ht
  have hsum := weight_pair_toNat hf hperm
  exact ⟨_, _, x, y, exec_merge hr ht, joinNodes_node .., hsum, hsum.trans_le (weight_pair_le hf hperm)⟩

/-! ## MERGE carried out several times -/

theorem execTimes_succ_of_next {i : Instr} {n : Nat} {s t : State} (h : exec i s = .next t) :
    execTimes i (n + 1) s = execTimes i n t := by
  simp [execTimes, h]

theorem execTimes_succ_next {i : Instr} {n : Nat} {s u : State} (h : execTimes i (n + 1) s = .next u) :
    ∃ t, exec i s = .next t ∧ execTimes i n t = .next u := by
  rw [execTimes] at h
  cases hx : exec i s with
  | next t => exact ⟨t, rfl, by simpa [hx] using h⟩
  | fault f => simp [hx] at h
  | refused r => simp [hx] at h

theorem execTimes_add {i : Instr} {m : Nat} {s t : State} (h : execTimes i m s = .next t) (n : Nat) :
    execTimes i (m + n) s = execTimes i n t := by
  induction m generalizing s with
  | zero =>
    obtain rfl : s = t := by simpa [execTimes] using h
    rw [Nat.zero_add]
  | succ m ih =>
    obtain ⟨u, hu, hrest⟩ := execTimes_succ_next h
    rw [Nat.succ_add, execTimes_succ_of_next hu, ih hrest]

/-- A merge reads neither SYMV nor PENDING. -/
theorem mergeOnce_finish (b : Bool) (s : State) : mergeOnce (finish b s) = (mergeOnce s).map (finish b) := by
  have hjoin (x y : Index) (rest : List Index) : joinNodes x y rest (finish b s) = finish b (joinNodes x y rest s) := by
    simp only [joinNodes, finish_node, apply_ite (finish b)]; rfl
  simp only [mergeOnce, finish_node, finish_heap, hjoin]
  split
  · split
    · rfl
    · split <;> rfl
  · rfl

theorem exec_merge_finish {s : State} (hr : s.Ready .merge) : exec .merge (finish false s) = exec .merge s := by
  rw [exec_ready (s := finish false s) hr.1 hr.2, exec_ready hr.1 hr.2]
  simp only [bodyOf, bodyMerge, mergeOnce_finish]
  cases mergeOnce s <;> rfl

theorem execTimes_merge_finish {s : State} (hr : s.Ready .merge) (n : Nat) :
    execTimes .merge (n + 1) (finish false s) = execTimes .merge (n + 1) s := by
  rw [execTimes, execTimes, exec_merge_finish hr]

/-- One round of BUILD's loop in the invariant is one MERGE, and leaves the loop of one member less. -/
theorem merge_round {s : State} (hs : s.TreeInv) (hr : s.Ready .merge) :
    ∃ t, t.TreeInv ∧ t.err = .noError ∧ exec .merge s = .next (finish false t) ∧
      mergeLoop s.heap.length s = mergeLoop t.heap.length t ∧ t.heap.length + 1 = s.heap.length ∧
      t.phase = if t.heap.length = 1 then .tree else .merge := by
  obtain ⟨he, hp⟩ := ready_merge_iff.mp hr
  obtain ⟨t, ht⟩ := exists_mergeOnce hs hp
  obtain ⟨hlen, hphase⟩ := mergeOnce_heap hs hp ht
  refine ⟨t, treeInv_mergeOnce hs hp ht, (onlyTree_mergeOnce hp ht).err.trans he, exec_merge hr ht, ?_, hlen, hphase⟩
  rw [← hlen, mergeLoop_of_merge hp, ht, Option.bind_some]

/-- In P_MERGE with `n + 2` heap members, the loop of BUILD and `n + 1` MERGEs both complete the tree, alike (R114). -/
theorem mergeLoop_eq_merges {n : Nat} {s : State} (hs : s.TreeInv) (hr : s.Ready .merge) (hn : s.heap.length = n + 2) :
    ∃ u, mergeLoop s.heap.length s = some u ∧ execTimes .merge (n + 1) s = .next (finish false u) ∧
      u.phase = .tree := by
  induction n generalizing s with
  | zero =>
    obtain ⟨t, -, -, hexec, hloop, hlen, hphase⟩ := merge_round hs hr
    rw [if_pos (by omega)] at hphase
    exact ⟨t, hloop.trans (mergeLoop_of_not_merge (by simp [hphase])), execTimes_succ_of_next hexec, hphase⟩
  | succ n ih =>
    obtain ⟨t, htinv, hte, hexec, hloop, hlen, hphase⟩ := merge_round hs hr
    rw [if_neg (by omega)] at hphase
    have hrt : t.Ready .merge := ready_merge_iff.mpr ⟨hte, hphase⟩
    obtain ⟨u, hu, htimes, htree⟩ := ih htinv hrt (by omega)
    refine ⟨u, hloop.trans hu, ?_, htree⟩
    rw [execTimes_succ_of_next hexec, execTimes_merge_finish hrt, htimes]

theorem exec_keeps_treeInv {i : Instr} {s t : State} (hs : s.TreeInv) (h : exec i s = .next t) : t.TreeInv := by
  obtain rfl | ⟨e, -, rfl⟩ | ⟨-, emits, u, hu, rfl⟩ := exec_effect h
  · exact treeInv_of_sameTables (sameTables_finish _ _) hs
  · exact treeInv_of_sameTables (sameTables_raiseError _ _) hs
  · exact treeInv_of_sameTables (sameTables_finish _ _) (treeInv_effect hu hs)

/-- A MERGE that ends without an error ran. -/
theorem exec_merge_succeeds {s t : State} (h : exec .merge s = .next t) (ht : t.err = .noError) :
    (s.err = .noError ∧ s.phase = .merge) ∧ ∃ u, mergeOnce s = some u ∧ t = finish false u := by
  obtain ⟨hne, -, rfl⟩ | ⟨e, hne, rfl⟩ | ⟨hrun, ha, emits, u, hu, rfl⟩ := exec_next h
  · exact absurd ht hne
  · exact absurd ht hne
  · cases effect_of_body ha hu with
    | merge hp hm => exact ⟨⟨by simpa [runsLatched] using hrun, hp⟩, u, hm, rfl⟩
    | unchanged hi => simp at hi
    | results _ _ _ hi => simp [Instr.opcode] at hi

/-- MERGEs that end without an error all ran: they keep the invariant, and each took one member out of the heap. -/
theorem merges_keep {n : Nat} {s t : State} (hs : s.TreeInv) (h : execTimes .merge n s = .next t)
    (ht : t.err = .noError) : s.err = .noError ∧ t.TreeInv ∧ t.heap.length + n = s.heap.length := by
  induction n generalizing s with
  | zero =>
    obtain rfl : s = t := by simpa [execTimes] using h
    exact ⟨ht, hs, rfl⟩
  | succ n ih =>
    obtain ⟨u, hu, hrest⟩ := execTimes_succ_next h
    obtain ⟨hue, htinv, hlen⟩ := ih (exec_keeps_treeInv hs hu) hrest
    obtain ⟨⟨he, hp⟩, v, hv, rfl⟩ := exec_merge_succeeds hu hue
    have hheap := (mergeOnce_heap hs hp hv).1
    exact ⟨he, htinv, by rw [finish_heap] at hlen; omega⟩

/-! ## BUILD (R114, R115) -/

section
variable {s : State} (hs : s.TreeInv) (he : s.err = .noError)
include hs he

/-- BUILD's body in P_MERGE: one MERGE less than there are heap members. -/
theorem bodyBuild_merge (hp : s.phase = .merge) : ∃ u, bodyBuild s = .done u ∧
    execTimes .merge (s.heapn - 1) s = .next (finish false u) ∧ u.phase = .tree := by
  obtain ⟨-, h2, -⟩ := (treeOk_merge hp).mp hs.tree
  obtain ⟨n, hn⟩ := Nat.exists_eq_add_of_le' h2
  obtain ⟨u, hloop, htimes, hu⟩ := mergeLoop_eq_merges hs (ready_merge_iff.mpr ⟨he, hp⟩) hn
  exact ⟨u, by simp [bodyBuild, hp, hloop], by simpa [State.heapn, hn] using htimes, hu⟩

/-- BUILD's body in P_COUNT: HEAPINIT, then one MERGE less than there are symbols, none for the empty table. -/
theorem bodyBuild_count (hp : s.phase = .count) : ∃ u, bodyBuild s = .done u ∧
    execTimes .merge (s.nsym - 1) (finish false (heapInit s)) = .next (finish false u) ∧ u.phase = .tree ∧
    (s.nsym ≤ 1 → u = heapInit s) := by
  have hbody {u : State} (h : mergeLoop (heapInit s).heap.length (heapInit s) = some u) : bodyBuild s = .done u := by
    simp [bodyBuild, hp, -heapInit_heap, h]
  have hphase := heapInit_phase s
  by_cases hle : s.freq.length ≤ 1
  · rw [if_pos hle] at hphase
    have hzero : s.nsym - 1 = 0 := Nat.sub_eq_zero_of_le hle
    exact ⟨_, hbody (mergeLoop_of_not_merge (by simp [hphase])), by rw [hzero]; rfl, hphase, fun _ => rfl⟩
  · rw [if_neg hle] at hphase
    obtain ⟨n, hn⟩ := Nat.exists_eq_add_of_lt (not_le.mp hle)
    have hr : (heapInit s).Ready .merge := ready_merge_iff.mpr ⟨(onlyTree_heapInit s).err.trans he, hphase⟩
    obtain ⟨u, hloop, htimes, hu⟩ := mergeLoop_eq_merges (n := n) (treeInv_heapInit hs hp) hr
      (by simp [fullHeap]; omega)
    refine ⟨u, hbody hloop, ?_, hu, fun h => absurd h hle⟩
    rw [show s.nsym - 1 = n + 1 by simp [State.nsym]; omega, execTimes_merge_finish hr, htimes]

end

/-- Settles O23, from BUILD's body in each phase: its loop and the single MERGEs are one induction. -/
theorem buildIsHeapinitAndMerges : Obligations.BuildIsHeapinitAndMerges := by
  refine ⟨by decide, fun s hs he => ⟨fun hp => ?_, fun hp => ?_, fun hc hm w hw => ?_⟩⟩
  · obtain ⟨u, hb, htimes, hu⟩ := bodyBuild_merge hs he hp
    exact ⟨_, exec_done he (by simp [accepts, hp]) hb, htimes, hu⟩
  · obtain ⟨u, hb, htimes, hu, hfew⟩ := bodyBuild_count hs he hp
    refine ⟨_, _, exec_heapinit hp he, exec_done he (by simp [accepts, hp]) hb, htimes, hu, fun hle => ?_⟩
    obtain rfl := hfew hle
    exact results_of_effect (u := heapInit s) (.heapinit hp) (by decide)
  · exact exec_outOfPhase hw he (by simp [accepts, hc, hm])

/-- Settles O24, from O23: the MERGEs after HEAPINIT are the first of those BUILD stands for. -/
theorem partlyMergedBuildGivesTheSameState : Obligations.PartlyMergedBuildGivesTheSameState := by
  intro s h m n hs hr hh hm hme hmp
  obtain ⟨-, build⟩ := buildIsHeapinitAndMerges
  have hp : s.phase = .count := by simpa [accepts] using hr.2
  obtain ⟨-, hcount, -⟩ := build s hs hr.1
  obtain ⟨h', t, hh', hbt, htimes, -⟩ := hcount hp
  obtain rfl : h = h' := by simpa [hh] using hh'
  obtain rfl : h = finish false (heapInit s) := by simpa [hh] using exec_heapinit hp hr.1
  obtain ⟨-, hminv, hlen⟩ := merges_keep (exec_keeps_treeInv hs hh) hm hme
  replace hlen : m.heap.length + n = s.freq.length := by simpa [fullHeap] using hlen
  obtain ⟨t', hbt', htimes', -⟩ := (build m hminv hme).1 hmp
  obtain ⟨-, h2, -⟩ := (treeOk_merge hmp).mp hminv.tree
  have hsum : s.nsym - 1 = n + (m.heapn - 1) := by
    unfold State.nsym State.heapn
    omega
  rw [hsum, execTimes_add hm, htimes'] at htimes
  obtain rfl : t' = t := by simpa using htimes
  exact ⟨t', hbt, hbt'⟩

/-- Where the heap has one member, that node is no child, and every other node is one child (R115). -/
theorem count_childrenOf_of_single {s : State} {k : Index} {j : Nat} (hf : s.Forest) (hh : s.heap = [k])
    (hj : j < s.node.length) : (childrenOf s.node).count j = if j = k.toNat then 0 else 1 := by
  have hown := hf.owned.count_eq j
  rw [List.count_eq_one_of_mem List.nodup_range (List.mem_range.mpr hj), List.count_append, hh] at hown
  split
  next h => simp [h] at hown ⊢; omega
  next h => simpa [Ne.symm h] using hown

/-- What BUILD leaves in P_COUNT is a completed tree over the same frequency table. -/
theorem bodyBuild_treeDone {s : State} (hs : s.TreeInv) (he : s.err = .noError) (hp : s.phase = .count) :
    ∃ u, bodyBuild s = .done u ∧ u.TreeDone ∧ u.freq = s.freq := by
  have ha : accepts s.phase .build = true := by simp [accepts, hp]
  obtain ⟨u, hb, -, hu, -⟩ := bodyBuild_count hs he hp
  have hleft : (bodyBuild s).left = some u := by simp [hb, Body.left]
  exact ⟨u, hb, ((treeOk_tree hu).mp (treeInv_bodyBuild hs ha hleft).tree).1, (onlyTree_bodyBuild ha hleft).freq⟩

/-- Settles O25, from the completed tree: its leaves, its internal nodes and its one heap member, the root. -/
theorem buildMakesOneStrictBinaryTree : Obligations.BuildMakesOneStrictBinaryTree := by
  intro s hs he hp hne
  obtain ⟨u, hb, hdone, hfreq⟩ := bodyBuild_treeDone hs he hp
  have hf := hdone.forest
  obtain ⟨k, hroot, hheap, hlen, hk⟩ := hdone.root (hfreq ▸ hne)
  rw [hfreq] at hlen
  have hlast : 2 * s.freq.length - 2 = k.toNat := by omega
  refine ⟨finish false u, exec_done he (by simp [accepts, hp]) hb, hlen, ?_, fun j hj => ?_,
    fun j h1 h2 => hf.internal j (hfreq ▸ h1) h2, fun j hj => ?_⟩
  · rw [finish_root, hroot, hlast, BitVec.ofNat_toNat, BitVec.setWidth_eq]
  · simpa [hfreq, hj] using congrArg (·[j]?) hf.leaves
  · rw [hlast]
    exact count_childrenOf_of_single (s := u) hf hheap hj

/-- Settles O26, by the effects of the commands that these two phases accept. -/
theorem completedTreeIsFrozen : Obligations.CompletedTreeIsFrozen := by
  intro i s t hp h hclear hldbegin
  obtain rfl | ⟨e, -, rfl⟩ | ⟨-, emits, u, hu, rfl⟩ := exec_effect h
  · exact ⟨rfl, rfl, rfl, rfl⟩
  · exact ⟨rfl, rfl, rfl, rfl⟩
  cases hu with
  | clear => exact absurd rfl hclear
  | ldbegin => exact absurd rfl hldbegin
  | bump _ hc | add _ hc | heapinit hc | merge hc | ldent _ hc | ldend hc => simp [hc] at hp
  | build ha => obtain hp | hp := hp <;> simp [accepts, hp] at ha
  | unchanged | gentable | results | append | emit => exact ⟨rfl, rfl, rfl, rfl⟩

end Sys2Proof.Machine
end

section
/-! SUPPORT. The statements about code-table generation (R130, R131). -/

namespace Sys2Proof.Machine

/-! ## The nodes of a forest (R32) and the walks along them -/

theorem walk_cons_internal {nodes : List Node} {k l r : Index} {w : Word}
    (h : nodes[k.toNat]? = some (.internal w l r)) (b : Bool) (bs : List Bool) :
    walk nodes k (b :: bs) = walk nodes (if b then r else l) bs := by
  simp [walk, h]

theorem walk_cons_eq_some {nodes : List Node} {k j : Index} {b : Bool} {bs : List Bool}
    (h : walk nodes k (b :: bs) = some j) :
    ∃ w l r, nodes[k.toNat]? = some (.internal w l r) ∧ walk nodes (if b then r else l) bs = some j := by
  simp only [walk] at h
  split at h
  next w l r hk => exact ⟨w, l, r, hk, h⟩
  · simp at h
  · simp at h

theorem walk_concat_eq_some_iff {nodes : List Node} {k j : Index} {b : Bool} {bs : List Bool} :
    walk nodes k (bs ++ [b]) = some j ↔
      ∃ i w l r, walk nodes k bs = some i ∧ nodes[i.toNat]? = some (.internal w l r) ∧ (if b then r else l) = j := by
  rw [walk_append]
  constructor
  · intro h
    obtain ⟨i, hi, hb⟩ := Option.bind_eq_some_iff.mp h
    obtain ⟨w, l, r, hn, hj⟩ := walk_cons_eq_some hb
    exact ⟨i, w, l, r, hi, hn, Option.some.inj hj⟩
  · rintro ⟨i, w, l, r, hi, hn, rfl⟩
    rw [hi, Option.bind_some, walk_cons_internal hn, walk]

/-- A walk to a leaf is the only walk to a node that starts with its bits. -/
theorem eq_of_prefix_of_walk_leaf {nodes : List Node} {r j k : Index} {bs cs : List Bool}
    (hb : walk nodes r bs = some j) (hj : leafAt nodes j = true) (hc : walk nodes r cs = some k) (h : bs <+: cs) :
    bs = cs := by
  obtain ⟨ds, rfl⟩ := h
  by_contra hds
  rw [walk_append, hb, Option.bind_some, walk_leaf hj (by simpa using hds)] at hc
  cases hc

theorem mem_childrenOf_iff {nodes : List Node} {j : Index} :
    j.toNat ∈ childrenOf nodes ↔
      ∃ (i : Nat) (w : Word) (l r : Index) (b : Bool),
        nodes[i]? = some (.internal w l r) ∧ (if b then r else l) = j := by
  rw [childrenOf, List.mem_flatMap]
  constructor
  · rintro ⟨n, hn, hj⟩
    obtain ⟨i, hi⟩ := List.mem_iff_getElem?.mp hn
    cases n with
    | leaf => simp at hj
    | internal w l r =>
      obtain rfl | rfl : j = l ∨ j = r := by simpa [BitVec.toNat_inj] using hj
      · exact ⟨i, w, j, r, false, hi, rfl⟩
      · exact ⟨i, w, l, j, true, hi, rfl⟩
  · rintro ⟨i, w, l, r, b, hi, rfl⟩
    exact ⟨_, List.mem_of_getElem? hi, by cases b <;> simp⟩

/-- Where no node is a child twice, two internal nodes that have a child in common are one. -/
theorem eq_of_common_child {nodes : List Node} (hd : (childrenOf nodes).Nodup) {i i' : Nat} {w w' : Word}
    {l r l' r' : Index} {b c : Bool} (hi : nodes[i]? = some (.internal w l r))
    (hi' : nodes[i']? = some (.internal w' l' r')) (h : (if b then r else l) = if c then r' else l') : i = i' := by
  wlog hle : i ≤ i' generalizing i i' w w' l r l' r' b c
  · exact (this hi' hi h.symm (Nat.le_of_not_le hle)).symm
  refine hle.antisymm (not_lt.mp fun hlt => ?_)
  obtain ⟨hn, hi⟩ := List.getElem?_eq_some_iff.mp hi
  obtain ⟨hn', hi'⟩ := List.getElem?_eq_some_iff.mp hi'
  have hdis := List.pairwise_iff_getElem.mp (List.nodup_flatMap.mp hd).2 i i' hn hn' hlt
  simp only [Function.onFun, hi, hi'] at hdis
  exact @hdis (if b then r else l).toNat (by cases b <;> simp) (by rw [h]; cases c <;> simp)

namespace State.Forest

section
variable {s : State} (hf : s.Forest)
include hf

theorem getElem?_of_lt {i : Nat} (hi : i < s.freq.length) : s.node[i]? = some s.freq[i].leaf := by
  rw [← List.getElem?_take_of_lt hi, hf.leaves]
  simp [hi]

/-- The nodes of FREQ's entries are the leaves, and the others are internal. -/
theorem leafAt_iff {k : Index} (hk : k.toNat < s.node.length) : leafAt s.node k = true ↔ k.toNat < s.freq.length := by
  constructor
  · intro h
    by_contra hge
    simp [leafAt_of_internalOk (hf.internal _ (not_lt.mp hge) hk)] at h
  · intro h
    simp [leafAt, hf.getElem?_of_lt h, FreqEntry.leaf]

/-- An internal node lies above its two children, and they differ. -/
theorem children_of_internal {k : Nat} {w : Word} {l r : Index} (h : s.node[k]? = some (.internal w l r)) :
    l.toNat < k ∧ r.toNat < k ∧ l ≠ r := by
  obtain ⟨hk, -⟩ := List.getElem?_eq_some_iff.mp h
  have hge : s.freq.length ≤ k := by
    by_contra hlt
    simp [hf.getElem?_of_lt (not_le.mp hlt), FreqEntry.leaf] at h
  obtain ⟨w', l', r', hn, hl, hr, hne, -⟩ := internalOk_iff.mp (hf.internal k hge hk)
  obtain ⟨-, rfl, rfl⟩ : w = w' ∧ l = l' ∧ r = r' := by simpa [h] using hn
  exact ⟨hl, hr, hne⟩

theorem child_lt {k : Nat} {w : Word} {l r : Index} (h : s.node[k]? = some (.internal w l r)) (b : Bool) :
    (if b then r else l).toNat < k := by
  obtain ⟨hl, hr, -⟩ := hf.children_of_internal h
  cases b <;> assumption

/-- Every edge of a walk leads to a smaller index. -/
theorem add_length_le_of_walk {k j : Index} {bs : List Bool} (h : walk s.node k bs = some j) :
    j.toNat + bs.length ≤ k.toNat := by
  induction bs generalizing k with
  | nil =>
    obtain rfl : k = j := Option.some.inj h
    simp
  | cons b bs ih =>
    obtain ⟨w, l, r, hk, hw⟩ := walk_cons_eq_some h
    have := hf.child_lt hk b
    have := ih hw
    simp only [List.length_cons]
    omega

theorem nodup_childrenOf : (childrenOf s.node).Nodup :=
  (List.nodup_append.mp (hf.owned.nodup_iff.mpr List.nodup_range)).2.1

/-- Two walks from one node to another are the same walk (R115). -/
theorem walk_injective {k j : Index} {bs cs : List Bool} (hb : walk s.node k bs = some j)
    (hc : walk s.node k cs = some j) : bs = cs := by
  have stays {ds : List Bool} {d : Bool} (h : walk s.node k (ds ++ [d]) = some k) : False := by
    simpa using hf.add_length_le_of_walk h
  induction bs using List.reverseRecOn generalizing cs j with
  | nil =>
    obtain rfl : k = j := Option.some.inj hb
    obtain rfl | ⟨cs, c, rfl⟩ := cs.eq_nil_or_concat'
    · rfl
    · exact (stays hc).elim
  | append_singleton bs b ih =>
    obtain rfl | ⟨cs, c, rfl⟩ := cs.eq_nil_or_concat'
    · obtain rfl : k = j := Option.some.inj hc
      exact (stays hb).elim
    · obtain ⟨i, w, l, r, hi, hn, hj⟩ := walk_concat_eq_some_iff.mp hb
      obtain ⟨i', w', l', r', hi', hn', hj'⟩ := walk_concat_eq_some_iff.mp hc
      obtain rfl : i = i' :=
        BitVec.eq_of_toNat_eq (eq_of_common_child hf.nodup_childrenOf hn hn' (hj.trans hj'.symm))
      obtain ⟨-, rfl, rfl⟩ : w = w' ∧ l = l' ∧ r = r' := by simpa [hn] using hn'
      obtain ⟨-, -, hlr⟩ := hf.children_of_internal hn
      obtain rfl : b = c := by
        subst hj
        cases b <;> cases c <;> simp_all
      rw [ih hi hi']

end

end State.Forest

/-! ## The completed tree (R115) -/

namespace State.TreeDone

section
variable {s : State} {r : Index} (hs : s.TreeDone) (hr : s.root = some r)
include hs hr

/-- The root is the last node and the heap's one member. -/
theorem root_spec : s.heap = [r] ∧ s.node.length = 2 * s.freq.length - 1 ∧ r.toNat + 1 = s.node.length := by
  have hne : s.freq ≠ [] := fun h => by
    obtain ⟨-, -, hnone⟩ := hs.empty h
    simp [hnone] at hr
  obtain ⟨k, hk, hheap, hlen, hlast⟩ := hs.root hne
  obtain rfl : k = r := Option.some.inj (hk.symm.trans hr)
  have := List.length_pos_of_ne_nil hne
  exact ⟨hheap, hlen, by omega⟩

/-- Every node but the root is the child of a node with a greater index. -/
theorem exists_parent {j : Index} (hj : j.toNat < s.node.length) (hne : j ≠ r) : ∃ (i : Index) (w : Word)
    (l r : Index) (b : Bool), s.node[i.toNat]? = some (.internal w l r) ∧ (if b then r else l) = j ∧
      i.toNat < s.node.length ∧ j.toNat < i.toNat := by
  obtain ⟨hheap, -, hlast⟩ := hs.root_spec hr
  have hmem : j.toNat ∈ s.heap.map BitVec.toNat ++ childrenOf s.node :=
    hs.forest.owned.mem_iff.mpr (List.mem_range.mpr hj)
  have hchild : j.toNat ∈ childrenOf s.node := by
    simpa [hheap, BitVec.toNat_inj, hne] using hmem
  obtain ⟨i, w, l, r', b, hi, hb⟩ := mem_childrenOf_iff.mp hchild
  obtain ⟨hlt, -⟩ := List.getElem?_eq_some_iff.mp hi
  have hi16 : (BitVec.ofNat 16 i).toNat = i := toNat_ofNat_of_lt (by omega)
  refine ⟨BitVec.ofNat 16 i, w, l, r', b, ?_, hb, ?_, ?_⟩ <;> rw [hi16]
  · exact hi
  · exact hlt
  · exact hb ▸ hs.forest.child_lt hi b

/-- Every node is reached from the root: its parent is, which has a greater index. -/
theorem exists_walk (j : Index) (hj : j.toNat < s.node.length) : ∃ bs, walk s.node r bs = some j := by
  by_cases hne : j = r
  · exact ⟨[], by rw [hne, walk]⟩
  · obtain ⟨i, w, l, r', b, hi, hb, hilt, hlt⟩ := hs.exists_parent hr hj hne
    obtain ⟨bs, hbs⟩ := exists_walk i hilt
    exact ⟨bs ++ [b], walk_concat_eq_some_iff.mpr ⟨i, w, l, r', hbs, hi, hb⟩⟩
termination_by s.node.length - j.toNat

end

end State.TreeDone

/-! ## The traversal (R130) -/

/-- The traversal finds its way through a forest: the index falls with each call, so the fuel lasts. -/
theorem exists_pathsFrom {s : State} (hf : s.Forest) {fuel : Nat} {k : Index} (hk : k.toNat < s.node.length)
    (hfuel : k.toNat < fuel) (len val : Nat) : ∃ ps, pathsFrom s.node fuel k len val = some ps := by
  induction fuel generalizing k len val with
  | zero => omega
  | succ fuel ih =>
    simp only [pathsFrom]
    cases hn : s.node[k.toNat]? with
    | none =>
      have := List.getElem?_eq_none_iff.mp hn
      omega
    | some n =>
      cases n with
      | leaf w sym => exact ⟨_, rfl⟩
      | internal w l r =>
        obtain ⟨hl, hr, -⟩ := hf.children_of_internal hn
        obtain ⟨ps, hps⟩ := ih (k := l) (by omega) (by omega) (len + 1) (2 * val)
        obtain ⟨qs, hqs⟩ := ih (k := r) (by omega) (by omega) (len + 1) (2 * val + 1)
        exact ⟨ps ++ qs, by simp [hps, hqs]⟩

/-- Induction over a traversal that ends: a leaf is one path, an internal node has its children's paths. -/
theorem pathsFrom_induction {nodes : List Node}
    {motive : ∀ {fuel : Nat} {k : Index} {len val : Nat} {ps : List Path},
      pathsFrom nodes fuel k len val = some ps → Prop}
    (leaf : ∀ {fuel k len val} (_ : leafAt nodes k = true)
      (h : pathsFrom nodes fuel k len val = some [{ leaf := k, len := len, val := val }]), motive h)
    (node : ∀ {fuel k len val w l r ps qs} (_ : nodes[k.toNat]? = some (.internal w l r))
      (hl : pathsFrom nodes fuel l (len + 1) (2 * val) = some ps)
      (hr : pathsFrom nodes fuel r (len + 1) (2 * val + 1) = some qs)
      (h : pathsFrom nodes (fuel + 1) k len val = some (ps ++ qs)), motive hl → motive hr → motive h)
    {fuel : Nat} {k : Index} {len val : Nat} {ps : List Path} (h : pathsFrom nodes fuel k len val = some ps) :
    motive h := by
  induction fuel generalizing k len val ps with
  | zero => simp [pathsFrom] at h
  | succ fuel ih =>
    have heq := h
    simp only [pathsFrom] at heq
    split at heq
    · simp at heq
    next w sym hk =>
      obtain rfl := Option.some.inj heq
      exact leaf (by simp [leafAt, hk]) h
    next w l r hk =>
      split at heq
      next ps qs hl hr =>
        obtain rfl := Option.some.inj heq
        exact node hk hl hr h (ih hl) (ih hr)
      next => simp at heq

section
variable {nodes : List Node} {fuel : Nat} {k : Index} {len val : Nat} {ps : List Path}
  (h : pathsFrom nodes fuel k len val = some ps)
include h

/-- Whichever way a bit string leads, the traversal went along it to a leaf. -/
theorem exists_path_along (bs : List Bool) :
    ∃ p ∈ ps, ∃ cs, p.Spells nodes k len val cs ∧ (cs <+: bs ∨ bs <+: cs) := by
  induction h using pathsFrom_induction generalizing bs with
  | leaf hk => exact ⟨_, List.mem_singleton_self _, [], ⟨rfl, hk, rfl, by simp⟩, .inl bs.nil_prefix⟩
  | node hk _ _ _ ihl ihr =>
    cases bs with
    | nil =>
      obtain ⟨p, hp, cs, hcs, -⟩ := ihl []
      exact ⟨p, List.mem_append_left _ hp, false :: cs, spells_cons hk hcs, .inr List.nil_prefix⟩
    | cons b bs =>
      cases b with
      | false =>
        obtain ⟨p, hp, cs, hcs, hpre⟩ := ihl bs
        exact ⟨p, List.mem_append_left _ hp, false :: cs, spells_cons hk hcs, by simpa using hpre⟩
      | true =>
        obtain ⟨p, hp, cs, hcs, hpre⟩ := ihr bs
        exact ⟨p, List.mem_append_right _ hp, true :: cs, spells_cons hk hcs, by simpa using hpre⟩

/-- The traversal lists every walk from its node to a leaf. -/
theorem exists_path_of_walk {j : Index} {bs : List Bool} (hw : walk nodes k bs = some j)
    (hj : leafAt nodes j = true) : ∃ p ∈ ps, p.leaf = j ∧ p.len = len + bs.length := by
  obtain ⟨p, hp, cs, ⟨hcs, hleaf, hlen, -⟩, hpre⟩ := exists_path_along h bs
  obtain rfl : cs = bs := by
    obtain hpre | hpre := hpre
    · exact eq_of_prefix_of_walk_leaf hcs hleaf hw hpre
    · exact (eq_of_prefix_of_walk_leaf hw hj hcs hpre).symm
  exact ⟨p, hp, Option.some.inj (hcs.symm.trans hw), hlen⟩

/-- The traversal of a tree with `n` leaves goes less than `n` edges deep. -/
theorem len_lt_of_mem_paths {p : Path} (hp : p ∈ ps) : p.len < len + ps.length := by
  induction h using pathsFrom_induction with
  | leaf =>
    obtain rfl := List.mem_singleton.mp hp
    simp
  | node _ hl hr _ ihl ihr =>
    obtain ⟨q, hq, -⟩ := exists_path_along hl []
    obtain ⟨q', hq', -⟩ := exists_path_along hr []
    have := List.length_pos_of_mem hq
    have := List.length_pos_of_mem hq'
    rw [List.length_append]
    obtain hp | hp := List.mem_append.mp hp
    · have := ihl hp
      omega
    · have := ihr hp
      omega

/-- Kraft's equality for the paths below one node: each half of the strings is shared out below one child (R131). -/
theorem kraft_of_paths (hlen : ∀ p ∈ ps, p.len ≤ 64) : (ps.map fun p => 2 ^ (64 - p.len)).sum * 2 ^ len = 2 ^ 64 := by
  induction h using pathsFrom_induction with
  | @leaf _ _ len _ =>
    have : len ≤ 64 := hlen _ (List.mem_singleton_self _)
    simp [← Nat.pow_add, this]
  | node _ _ _ _ ihl ihr =>
    have hl := ihl fun p hp => hlen p (List.mem_append_left _ hp)
    have hr := ihr fun p hp => hlen p (List.mem_append_right _ hp)
    rw [Nat.pow_succ] at hl hr
    rw [List.map_append, List.sum_append]
    linarith

end

/-- No leaf of a forest is listed twice: a leaf below both children would be reached by two walks. -/
theorem nodup_leaf_of_paths {s : State} (hf : s.Forest) {fuel : Nat} {k : Index} {len val : Nat} {ps : List Path}
    (h : pathsFrom s.node fuel k len val = some ps) : (ps.map Path.leaf).Nodup := by
  induction h using pathsFrom_induction with
  | leaf => simp
  | @node _ k _ _ _ _ _ _ _ hk hl hr _ ihl ihr =>
    rw [List.map_append]
    refine List.Nodup.append ihl ihr fun j hj hj' => ?_
    obtain ⟨p, hp, rfl⟩ := List.mem_map.mp hj
    obtain ⟨q, hq, heq⟩ := List.mem_map.mp hj'
    obtain ⟨bs, hbs, -⟩ := pathsFrom_spells hl hp
    obtain ⟨cs, hcs, -⟩ := pathsFrom_spells hr hq
    have hb : walk s.node k (false :: bs) = some p.leaf := by simpa [walk_cons_internal hk] using hbs
    have hc : walk s.node k (true :: cs) = some p.leaf := by simpa [walk_cons_internal hk, heq] using hcs
    simpa using hf.walk_injective hb hc

/-! ## The paths from the root (R130) -/

theorem tooLong_eq_false_iff_len {ps : List Path} : tooLong ps = false ↔ ∀ p ∈ ps, p.len ≤ 64 := by
  change _ ↔ ∀ p ∈ ps, p.len ≤ Config.lMax
  simp [tooLong]

/-- A leaf that the list has a path to is found in it. -/
theorem exists_pathOf {ps : List Path} {p : Path} (hp : p ∈ ps) :
    ∃ q, pathOf ps p.leaf.toNat = some q ∧ q ∈ ps ∧ q.leaf.toNat = p.leaf.toNat := by
  have hfound : (pathOf ps p.leaf.toNat).isSome = true := List.find?_isSome.mpr ⟨p, hp, by simp⟩
  obtain ⟨q, hq⟩ := Option.isSome_iff_exists.mp hfound
  exact ⟨q, hq, List.mem_of_find?_eq_some hq, by simpa using List.find?_some hq⟩

theorem rootPaths_eq {s : State} {r : Index} (hr : s.root = some r) :
    rootPaths s = pathsFrom s.node s.node.length r 0 0 := by
  simp [rootPaths, hr]

theorem exists_rootPaths {s : State} (hs : s.TreeDone) (hne : s.freq ≠ []) :
    ∃ r ps, s.root = some r ∧ rootPaths s = some ps := by
  obtain ⟨r, hr, -⟩ := hs.root hne
  obtain ⟨-, -, hlast⟩ := hs.root_spec hr
  obtain ⟨ps, hps⟩ := exists_pathsFrom hs.forest (k := r) (fuel := s.node.length) (by omega) (by omega) 0 0
  exact ⟨r, ps, hr, (rootPaths_eq hr).trans hps⟩

section
variable {s : State} {r : Index} {ps : List Path} (hs : s.TreeDone) (hr : s.root = some r)
  (hps : rootPaths s = some ps)
include hr hps

/-- The traversal meets a path longer than 64 exactly when a leaf lies that deep (R130, R132). -/
theorem tooLong_eq_false_iff : tooLong ps = false ↔ s.ShallowTree := by
  rw [rootPaths_eq hr] at hps
  rw [tooLong_eq_false_iff_len]
  constructor
  · intro h r' bs k hr' hw hk
    obtain rfl : r = r' := Option.some.inj (hr.symm.trans hr')
    obtain ⟨p, hp, -, hlen⟩ := exists_path_of_walk hps hw hk
    have := h p hp
    omega
  · intro h p hp
    obtain ⟨bs, hw, hk, hlen, -⟩ := pathsFrom_spells hps hp
    have := h r bs p.leaf hr hw hk
    omega

include hs

/-- The traversal lists each leaf once. -/
theorem perm_leaves : (ps.map fun p => p.leaf.toNat).Perm (List.range s.freq.length) := by
  rw [rootPaths_eq hr] at hps
  obtain ⟨-, hlen, hlast⟩ := hs.root_spec hr
  have hnodup : (ps.map fun p => p.leaf.toNat).Nodup := by
    have := (nodup_leaf_of_paths hs.forest hps).map BitVec.toNat_injective
    rwa [List.map_map] at this
  refine (List.perm_ext_iff_of_nodup hnodup List.nodup_range).mpr fun i => ?_
  rw [List.mem_map, List.mem_range]
  constructor
  · rintro ⟨p, hp, rfl⟩
    obtain ⟨bs, hw, hleaf, -⟩ := pathsFrom_spells hps hp
    have := hs.forest.add_length_le_of_walk hw
    exact (hs.forest.leafAt_iff (by omega)).mp hleaf
  · intro hi
    have hi16 : (BitVec.ofNat 16 i).toNat = i := toNat_ofNat_of_lt (by omega)
    have hlt : (BitVec.ofNat 16 i).toNat < s.node.length := by omega
    obtain ⟨bs, hw⟩ := hs.exists_walk hr _ hlt
    obtain ⟨p, hp, hpi, -⟩ := exists_path_of_walk hps hw ((hs.forest.leafAt_iff hlt).mpr (by omega))
    exact ⟨p, hp, by rw [hpi, hi16]⟩

theorem exists_entryOfLeaf {i : Nat} (hi : i < s.freq.length) : ∃ e, entryOfLeaf s.node ps i = some e := by
  have hmem : i ∈ ps.map fun p => p.leaf.toNat := (perm_leaves hs hr hps).mem_iff.mpr (List.mem_range.mpr hi)
  obtain ⟨p, hp, rfl⟩ := List.mem_map.mp hmem
  obtain ⟨q, hq, -⟩ := exists_pathOf hp
  exact ⟨_, by rw [entryOfLeaf, hs.forest.getElem?_of_lt hi, hq]; rfl⟩

end

theorem exists_codeEntries {nodes : List Node} {ps : List Path} {is : List Nat}
    (h : ∀ i ∈ is, ∃ e, entryOfLeaf nodes ps i = some e) : ∃ es, codeEntries nodes ps is = some es := by
  induction is with
  | nil => exact ⟨[], rfl⟩
  | cons i is ih =>
    obtain ⟨e, he⟩ := h i List.mem_cons_self
    obtain ⟨es, hes⟩ := ih fun j hj => h j (List.mem_cons_of_mem _ hj)
    exact ⟨e :: es, by simp [codeEntries, he, hes]⟩

/-! ## GENTABLE (R130) -/

theorem bodyGentable_nil {s : State} (h : s.freq = []) :
    bodyGentable s = .done { s with code := [], acc := .empty, phase := .table } := by
  unfold bodyGentable
  split <;> simp_all

theorem bodyGentable_singleton {s : State} {e : FreqEntry} (h : s.freq = [e]) :
    bodyGentable s = .done { s with
      code := [{ sym := e.sym, word := { len := 1#7, val := 0#64 } }], acc := .empty, phase := .table } := by
  unfold bodyGentable
  split <;> simp_all

theorem bodyGentable_of_two_le {s : State} (h : 2 ≤ s.freq.length) : bodyGentable s = tableOfTree s := by
  unfold bodyGentable
  split
  next hf => simp [hf] at h
  next hf => simp [hf] at h
  next => rfl

/-- GENTABLE over a tree of two or more leaves: a table where none lies too deep, else CODE_TOO_LONG. -/
theorem bodyGentable_tree {s : State} (hs : s.TreeDone) (h2 : 2 ≤ s.freq.length) :
    (s.ShallowTree → ∃ es, s.GentableMakes es ∧
      bodyGentable s = .done { s with code := es, acc := .empty, phase := .table }) ∧
    (¬ s.ShallowTree → bodyGentable s = .raises .codeTooLong) := by
  obtain ⟨r, ps, hr, hps⟩ := exists_rootPaths hs (List.length_pos_iff.mp (by omega))
  rw [bodyGentable_of_two_le h2, ← tooLong_eq_false_iff hr hps]
  refine ⟨fun hshort => ?_, fun hlong => by simp [tableOfTree, hps, hlong]⟩
  obtain ⟨es, hes⟩ : ∃ es, codeEntries s.node ps (List.range s.freq.length) = some es :=
    exists_codeEntries fun i hi => exists_entryOfLeaf hs hr hps (List.mem_range.mp hi)
  exact ⟨es, .inr (.inr ⟨h2, ps, hps, hshort, hes⟩), by simp [tableOfTree, hps, hshort, hes]⟩

/-- A table made from a tree of two or more leaves is made from the paths of the traversal. -/
theorem paths_of_gentableMakes {s : State} {es : List CodeEntry} (hs : s.TreeDone) (h2 : 2 ≤ s.freq.length)
    (h : s.GentableMakes es) : ∃ r ps, s.root = some r ∧ rootPaths s = some ps ∧ tooLong ps = false ∧
      codeEntries s.node ps (List.range s.freq.length) = some es := by
  obtain ⟨r, hr, -⟩ := hs.root (List.length_pos_iff.mp (by omega))
  obtain ⟨hf, -⟩ | ⟨_, hf, -⟩ | ⟨-, ps, hps, hshort, hes⟩ := h
  · simp [hf] at h2
  · simp [hf] at h2
  · exact ⟨r, ps, hr, hps, hshort, hes⟩

/-- Entry `i` of a table made from a tree is a valid codeword that leads from the root to leaf `i`. -/
theorem walk_bits_of_gentableMakes {s : State} {es : List CodeEntry} {r : Index} (hs : s.TreeDone)
    (h2 : 2 ≤ s.freq.length) (hr : s.root = some r) (h : s.GentableMakes es) {i : Nat} {e : CodeEntry}
    (he : es[i]? = some e) : e.word.valid = true ∧ walk s.node r e.word.bits = some (BitVec.ofNat 16 i) := by
  obtain ⟨hi, rfl⟩ := List.getElem?_eq_some_iff.mp he
  obtain ⟨-, ps, -, hps, hshort, hes⟩ := paths_of_gentableMakes hs h2 h
  obtain ⟨r', k, hr', hw, -, rfl, hvalid, -⟩ := entryOfLeaf_spec hs h2 hps hshort
    (length_of_gentableMakes h ▸ hi) (entryOfLeaf_of_codeEntries hes hi)
  obtain rfl : r = r' := Option.some.inj (hr.symm.trans hr')
  exact ⟨hvalid, by simpa using hw⟩

/-- Settles O27, by the number of symbols: over a tree the traversal ends, and it lists every leaf with its walk. -/
theorem gentableWritesTheTreePaths : Obligations.GentableWritesTheTreePaths := by
  refine ⟨by decide, fun s w hs hw he => ?_⟩
  have accepted (hp : s.phase = .tree) : accepts s.phase .gentable = true := by simp [accepts, hp]
  have done (hp : s.phase = .tree) : s.TreeDone := ((treeOk_tree hp).mp hs.tree).1
  refine ⟨fun hp => exec_outOfPhase hw he (by simpa [accepts] using hp), fun hp hf => ?_, fun e hp hf => ?_,
    fun hp h2 hshallow => ?_, fun hp h2 hdeep => ?_⟩
  · exact exec_done he (accepted hp) (bodyGentable_nil hf)
  · exact exec_done he (accepted hp) (bodyGentable_singleton hf)
  · obtain ⟨es, hmakes, hbody⟩ := (bodyGentable_tree (done hp) h2).1 hshallow
    obtain ⟨r, hr, -⟩ := (done hp).root (List.length_pos_iff.mp (by omega))
    obtain ⟨hsyms, -, -⟩ := gentableMakes_spec (done hp) hmakes
    exact ⟨es, r, exec_done he (accepted hp) hbody, hr, hsyms,
      fun k e hk => walk_bits_of_gentableMakes (done hp) h2 hr hmakes hk⟩
  · exact exec_raises hw he (accepted hp) ((bodyGentable_tree (done hp) h2).2 hdeep)

/-! ## The lengths of the generated codewords (R131) -/

/-- The length of the path to leaf `i`, or 0 where the list has none. -/
def leafDepth (ps : List Path) (i : Nat) : Nat := ((pathOf ps i).map Path.len).getD 0

/-- Where no leaf is listed twice, the path found for a leaf is the one listed. -/
theorem leafDepth_of_mem {ps : List Path} (hd : (ps.map fun p => p.leaf.toNat).Nodup) {p : Path} (hp : p ∈ ps) :
    leafDepth ps p.leaf.toNat = p.len := by
  obtain ⟨q, hq, hmem, hleaf⟩ := exists_pathOf hp
  obtain rfl : q = p := List.inj_on_of_nodup_map hd hmem hp hleaf
  simp [leafDepth, hq]

theorem len_of_entryOfLeaf {nodes : List Node} {ps : List Path} {i : Nat} {e : CodeEntry}
    (hshort : ∀ p ∈ ps, p.len ≤ 64) (h : entryOfLeaf nodes ps i = some e) : e.word.len.toNat = leafDepth ps i := by
  unfold entryOfLeaf at h
  split at h
  next w sym p hn hp =>
    obtain rfl := Option.some.inj h
    have := hshort p (List.mem_of_find?_eq_some hp)
    have hmod : p.len % 2 ^ 7 = p.len := Nat.mod_eq_of_lt (by omega)
    simpa [leafDepth, hp] using hmod
  next => simp at h

/-- The codewords are as long as the paths, in some order: each leaf has one path and one entry. -/
theorem perm_lengths {s : State} {r : Index} {ps : List Path} {es : List CodeEntry} (hs : s.TreeDone)
    (hr : s.root = some r) (hps : rootPaths s = some ps) (hshort : ∀ p ∈ ps, p.len ≤ 64)
    (hes : codeEntries s.node ps (List.range s.freq.length) = some es) :
    (es.map fun e => e.word.len.toNat).Perm (ps.map Path.len) := by
  have hleaves := perm_leaves hs hr hps
  have hpaths : ps.map Path.len = (ps.map fun p => p.leaf.toNat).map (leafDepth ps) := by
    rw [List.map_map]
    exact List.map_congr_left fun p hp => (leafDepth_of_mem (hleaves.nodup_iff.mpr List.nodup_range) hp).symm
  have hentries : es.map (fun e => e.word.len.toNat) = (List.range s.freq.length).map (leafDepth ps) := by
    refine List.ext_getElem (by simpa using (codeEntries_some hes).length_eq.symm) fun i hi _ => ?_
    rw [List.length_map] at hi
    simpa using len_of_entryOfLeaf hshort (entryOfLeaf_of_codeEntries hes hi)
  rw [hpaths, hentries]
  exact (hleaves.map _).symm

section
variable {s : State} {es : List CodeEntry} (hs : s.TreeDone) (h2 : 2 ≤ s.freq.length) (h : s.GentableMakes es)
include hs h2 h

/-- R131 (c) as an equation: the codewords share out all strings of 64 bits. -/
theorem kraft_of_gentableMakes : (es.map fun e => 2 ^ (64 - e.word.len.toNat)).sum = 2 ^ 64 := by
  obtain ⟨r, ps, hr, hps, hlong, hes⟩ := paths_of_gentableMakes hs h2 h
  have hshort := tooLong_eq_false_iff_len.mp hlong
  have hperm := perm_lengths hs hr hps hshort hes
  rw [rootPaths_eq hr] at hps
  calc (es.map fun e => 2 ^ (64 - e.word.len.toNat)).sum
      = ((es.map fun e => e.word.len.toNat).map fun n => 2 ^ (64 - n)).sum := by rw [List.map_map]; rfl
    _ = ((ps.map Path.len).map fun n => 2 ^ (64 - n)).sum := (hperm.map _).sum_eq
    _ = (ps.map fun p => 2 ^ (64 - p.len)).sum := by rw [List.map_map]; rfl
    _ = 2 ^ 64 := by simpa using kraft_of_paths hps hshort

/-- R131 (c): the path along a string of 64 bits or more ends within it, and it is the codeword of its leaf. -/
theorem exists_codeword_prefix {bs : List Bool} (hbs : 64 ≤ bs.length) : ∃ e ∈ es, e.word.bits <+: bs := by
  obtain ⟨r, ps, hr, hps, hlong, -⟩ := paths_of_gentableMakes hs h2 h
  have hleaves := perm_leaves hs hr hps
  rw [rootPaths_eq hr] at hps
  obtain ⟨p, hp, cs, ⟨hw, -, hlen, -⟩, hpre⟩ := exists_path_along hps bs
  have hle := tooLong_eq_false_iff_len.mp hlong p hp
  have hcs : cs <+: bs := hpre.elim id fun hbc => hbc.eq_of_length_le (by omega) ▸ List.prefix_rfl
  have hi : p.leaf.toNat < es.length := by
    rw [length_of_gentableMakes h, ← List.mem_range]
    exact hleaves.mem_iff.mp (List.mem_map_of_mem hp)
  obtain ⟨-, hwalk⟩ := walk_bits_of_gentableMakes hs h2 hr h (List.getElem?_eq_getElem hi)
  rw [BitVec.ofNat_toNat, BitVec.setWidth_eq] at hwalk
  exact ⟨es[p.leaf.toNat], List.getElem_mem hi, hs.forest.walk_injective hw hwalk ▸ hcs⟩

/-- R131 (d): a codeword has a bit at least, and at most as many as the tree has internal nodes. -/
theorem len_bounds_of_gentableMakes {e : CodeEntry} (he : e ∈ es) :
    1 ≤ e.word.len.toNat ∧ e.word.len.toNat ≤ s.freq.length - 1 := by
  obtain ⟨r, ps, hr, hps, hlong, hes⟩ := paths_of_gentableMakes hs h2 h
  have hperm := perm_lengths hs hr hps (tooLong_eq_false_iff_len.mp hlong) hes
  have hcount : ps.length = s.freq.length := by simpa using (perm_leaves hs hr hps).length_eq
  obtain ⟨-, hvalid, -⟩ := gentableMakes_spec hs h
  obtain ⟨⟨hpos, -⟩, -⟩ := by simpa only [Codeword.valid, Bool.and_eq_true, decide_eq_true_eq] using hvalid e he
  obtain ⟨p, hp, hpe⟩ := List.mem_map.mp (hperm.mem_iff.mp (List.mem_map_of_mem he))
  have hlt := len_lt_of_mem_paths (rootPaths_eq hr ▸ hps) hp
  exact ⟨hpos, by omega⟩

end

/-- Settles O28: the prefix code of the invariant, with the traversal's lengths and its path along every string. -/
theorem generatedTableIsACompletePrefixCode : Obligations.GeneratedTableIsACompletePrefixCode := by
  intro s t hs hr hx ht
  obtain ⟨ha, emits, u, hb, rfl⟩ := exec_succeeds hr.1 hx ht
  obtain ⟨es, hmakes, rfl⟩ := bodyGentable_left hb.left
  have hdone : s.TreeDone := ((treeOk_tree (by simpa [accepts] using ha)).mp hs.tree).1
  obtain ⟨hsyms, -, hfree⟩ := gentableMakes_spec hdone hmakes
  refine ⟨hsyms, hsyms ▸ hs.freq.distinct, hfree, fun h2 => ⟨?_, fun bs hbs => ?_, fun e he => ?_⟩, fun h1 e he => ?_⟩
  · exact kraft_of_gentableMakes hdone h2 hmakes
  · exact exists_codeword_prefix hdone h2 hmakes hbs
  · exact len_bounds_of_gentableMakes hdone h2 hmakes he
  · obtain ⟨hf, -⟩ | ⟨f, -, rfl⟩ | ⟨h2, -⟩ := hmakes
    · simp [hf] at h1
    · obtain rfl := List.mem_singleton.mp he
      exact bits_of_bitsValue (bs := [false]) (by decide)
    · omega

end Sys2Proof.Machine
end

section
/-! SUPPORT. The statement about ENCODE (R140), with the words of operands (R71) and the code layout (R78). -/

namespace Sys2Proof.Machine

/-! ## The word of a command with an operand (R70, R71) -/

/-- The word of a command with an operand: the opcode above the operand, which fits IMM. -/
theorem toNat_encode_of_operand {i : Instr} {n : Nat} (h : i.operand = some n) :
    (encode i).toNat = i.opcode.bits.toNat * 2 ^ 24 + n := by
  have hn : n < 2 ^ 24 := by
    cases i with
    | nop | clear | heapinit | merge | build | gentable | decend | ldbegin | ldend => cases h
    | count a | encode a | decode a | ldent a | rdfreq a | rdnode a | rdcode a =>
      obtain rfl := Option.some.inj h
      have := a.isLt
      omega
  rw [toNat_encode, imm_eq_ofNat_operand, h, Option.getD_some, BitVec.toNat_ofNat, Nat.mod_eq_of_lt hn]

/-! ## The result words of a code-table entry (R78) -/

theorem lo_eq_ofNat (c : Codeword) : c.lo = BitVec.ofNat 32 c.val.toNat := rfl

theorem hi_eq_ofNat (c : Codeword) : c.hi = BitVec.ofNat 32 (c.val.toNat / 2 ^ 32) := by
  rw [← Nat.shiftRight_eq_div_pow]; rfl

/-- The length keeps within the low byte, below the symbol. -/
theorem codeLayout_eq_ofNat (sym : Symbol) (len : BitVec 7) :
    codeLayout sym len = BitVec.ofNat 32 (sym.toNat * 2 ^ 8 + len.toNat) := by
  have hsym := sym.isLt
  have hlen : len.toNat < 2 ^ 8 := len.isLt.trans (by decide)
  apply BitVec.eq_of_toNat_eq
  simp only [codeLayout, zext32, BitVec.toNat_or, BitVec.toNat_shiftLeft, BitVec.toNat_setWidth, BitVec.toNat_ofNat]
  rw [Nat.mod_eq_of_lt (by omega : sym.toNat < 2 ^ 32), Nat.mod_eq_of_lt (by omega : len.toNat < 2 ^ 32),
    Nat.mod_eq_of_lt (by omega : sym.toNat <<< 8 < 2 ^ 32), ← Nat.shiftLeft_add_eq_or_of_lt hlen]
  omega

/-- The result words as numbers of the entry's codeword and symbol. -/
theorem setCodeResults_eq (e : CodeEntry) (s : State) : setCodeResults e s =
    { s with res0 := BitVec.ofNat 32 e.word.val.toNat,
             res1 := BitVec.ofNat 32 (e.word.val.toNat / 2 ^ 32),
             res2 := BitVec.ofNat 32 (e.sym.toNat * 2 ^ 8 + e.word.len.toNat) } := by
  rw [setCodeResults, setResults, lo_eq_ofNat, hi_eq_ofNat, codeLayout_eq_ofNat]

/-! ## Looking up an entry (R33) -/

/-- Where no two elements share a key, the search for an element's key finds the element. -/
theorem find?_key_of_mem {α β : Type} [DecidableEq β] {key : α → β} {l : List α} {a : α}
    (hd : (l.map key).Nodup) (ha : a ∈ l) : (l.find? fun x => key x == key a) = some a := by
  cases hfind : l.find? fun x => key x == key a with
  | none => exact absurd (List.find?_eq_none.mp hfind a ha) (by simp)
  | some x =>
    have hkey : key x = key a := by simpa using List.find?_some hfind
    exact congrArg some (List.inj_on_of_nodup_map hd (List.mem_of_find?_eq_some hfind) ha hkey)

theorem codeOf_of_mem {s : State} {e : CodeEntry} (hd : (s.code.map CodeEntry.sym).Nodup) (he : e ∈ s.code) :
    s.codeOf e.sym = some e :=
  find?_key_of_mem hd he

theorem codeOf_eq_none_iff {s : State} {sym : Symbol} : s.codeOf sym = none ↔ ∀ e ∈ s.code, e.sym ≠ sym := by
  simp [State.codeOf]

/-! ## ENCODE (R140) -/

theorem toNat_encode_encode (sym : Symbol) : (encode (.encode sym)).toNat = 0x40000000 + sym.toNat := by
  simp [toNat_encode_of_operand (i := .encode sym) rfl, Instr.opcode, Opcode.bits]

section
variable {sym : Symbol} {s : State}

theorem bodyEncode_invalid (hsym : isSymbol sym = false) : bodyEncode sym s = .raises .invalidSymbol := by
  simp [bodyEncode, hsym]

theorem bodyEncode_unmappable (hsym : isSymbol sym = true) (hcode : s.codeOf sym = none) :
    bodyEncode sym s = .raises .unmappableSymbol := by
  simp [bodyEncode, hsym, hcode]

theorem bodyEncode_found {e : CodeEntry} (hsym : isSymbol sym = true) (hcode : s.codeOf sym = some e) :
    bodyEncode sym s = .done (setCodeResults e s) := by
  simp [bodyEncode, hsym, hcode]

end

/-- Settles O29: the checks of ENCODE's body in their order, and the one entry of the symbol. -/
theorem encodeReturnsTheCodeword : Obligations.EncodeReturnsTheCodeword := by
  refine ⟨toNat_encode_encode, fun s w sym hw he =>
    ⟨fun hp => ?_, fun hp hbig => ?_, fun hp hle hnone => ?_, fun hp hle hd e hmem hsym => ?_⟩⟩
  · exact exec_outOfPhase hw he (by simpa [accepts] using hp)
  all_goals have ha : accepts s.phase (.encode sym) = true := by simpa [accepts] using hp
  · have hsym : isSymbol sym = false := by simpa [← isSymbol_iff] using not_le.mpr hbig
    exact exec_raises hw he ha (bodyEncode_invalid hsym)
  · exact exec_raises hw he ha (bodyEncode_unmappable (isSymbol_iff.mpr hle) (codeOf_eq_none_iff.mpr hnone))
  · subst hsym
    rw [exec_done he ha (bodyEncode_found (isSymbol_iff.mpr hle) (codeOf_of_mem hd hmem)), setCodeResults_eq]
    rfl

end Sys2Proof.Machine
end

section
/-! SUPPORT. The statements about DECODE and DECEND (R150, R151), with payload characters (R77) and codewords as
numbers (R13). -/

namespace Sys2Proof.Machine

/-! ## Payload characters (R77, R83) -/

@[simp] theorem charBit_bitChar (b : Bool) : charBit (bitChar b) = some b := by cases b <;> rfl

theorem charBit_eq_none_iff {chr : Byte} : charBit chr = none ↔ chr ≠ 0x30#8 ∧ chr ≠ 0x31#8 := by
  unfold charBit
  split_ifs <;> simp_all

theorem charBit_of_digit {chr : Byte} {n : Nat} (h : chr = 0x30#8 ∧ n = 0 ∨ chr = 0x31#8 ∧ n = 1) :
    ∃ b : Bool, charBit chr = some b ∧ n = b.toNat := by
  obtain ⟨rfl, rfl⟩ | ⟨rfl, rfl⟩ := h
  · exact ⟨false, rfl, rfl⟩
  · exact ⟨true, rfl, rfl⟩

/-! ## Codewords as numbers (R13) -/

theorem Codeword.eq_iff_toNat {c d : Codeword} :
    c = d ↔ c.len.toNat = d.len.toNat ∧ c.val.toNat = d.val.toNat := by
  cases c; cases d; simp [BitVec.toNat_inj]

section
variable {a : Codeword} (hl : a.len.toNat < 64) (hv : a.val.toNat < 2 ^ a.len.toNat)
include hl hv

theorem eq_append_iff {c : Codeword} {b : Bool} :
    c = a.append b ↔ c.len.toNat = a.len.toNat + 1 ∧ c.val.toNat = 2 * a.val.toNat + b.toNat := by
  rw [Codeword.eq_iff_toNat, toNat_append_len hl, toNat_append_val hl hv]

theorem append_eq_ofNat (b : Bool) : a.append b =
    { len := BitVec.ofNat 7 (a.len.toNat + 1), val := BitVec.ofNat 64 (2 * a.val.toNat + b.toNat) } := by
  rw [← toNat_append_len (b := b) hl, ← toNat_append_val (b := b) hl hv]
  simp

end

/-! ## DECODE (R150) -/

theorem toNat_encode_decode (chr : Byte) : (encode (.decode chr)).toNat = 0x50000000 + chr.toNat := by
  simp [toNat_encode_of_operand (i := .decode chr) rfl, Instr.opcode, Opcode.bits]

theorem entryOf_of_mem {s : State} {e : CodeEntry} (hd : (s.code.map CodeEntry.word).Nodup) (he : e ∈ s.code) :
    s.entryOf e.word = some e :=
  find?_key_of_mem hd he

theorem entryOf_eq_none_iff {s : State} {c : Codeword} : s.entryOf c = none ↔ ∀ e ∈ s.code, e.word ≠ c := by
  simp [State.entryOf]

section
variable {chr : Byte} {b : Bool} {s : State}

theorem bodyDecode_badChar (hchr : charBit chr = none) : bodyDecode chr s = .raises .badPayloadChar := by
  simp [bodyDecode, hchr]

theorem bodyDecode_full (hchr : charBit chr = some b) (hl : s.acc.len = 64#7) :
    bodyDecode chr s = .raises .accOverflow := by
  simp [bodyDecode, hchr, hl]

theorem bodyDecode_bit (hchr : charBit chr = some b) (hl : s.acc.len.toNat < 64) :
    bodyDecode chr s = decodeBit b s := by
  have hne : s.acc.len ≠ 64#7 := by intro h; simp [h] at hl
  simp [bodyDecode, hchr, hne]

end

theorem accepts_decode_iff {p : Phase} {chr : Byte} : accepts p (.decode chr) = true ↔ p = .table := by
  simp [accepts]

theorem exec_emitted {i : Instr} {s u : State} (he : s.err = .noError) (ha : accepts s.phase i = true)
    (hb : bodyOf i s = .emitted u) : exec i s = .next (finish true u) := by
  rw [exec_ready he ha, hb, completeBody]

section
variable {chr : Byte} {b : Bool} {s : State} (he : s.err = .noError) (hp : s.phase = .table)
  (hchr : charBit chr = some b) (hl : s.acc.len.toNat < 64)
include he hp hchr hl

theorem exec_decode_found {e : CodeEntry} (hentry : s.entryOf (s.acc.append b) = some e) :
    exec (.decode chr) s =
      .next (finish true (setResults (zext32 e.sym) 0#32 0#32 { s with acc := .empty })) :=
  exec_emitted he (accepts_decode_iff.mpr hp) ((bodyDecode_bit hchr hl).trans (by simp [decodeBit, hentry]))

theorem exec_decode_longer (hentry : s.entryOf (s.acc.append b) = none) :
    exec (.decode chr) s = .next (finish false { s with acc := s.acc.append b }) :=
  exec_done he (accepts_decode_iff.mpr hp) ((bodyDecode_bit hchr hl).trans (by simp [decodeBit, hentry]))

end

/-- Settles O30: the checks of DECODE's body in their order, then the longer accumulator as a number. -/
theorem decodeFeedsOneBit : Obligations.DecodeFeedsOneBit := by
  refine ⟨toNat_encode_decode, fun s w chr hw he => ⟨fun hp => ?_, fun hp h0 h1 => ?_, fun n hp hchr => ?_⟩⟩
  · exact exec_outOfPhase hw he (by simpa [accepts] using hp)
  · exact exec_raises hw he (accepts_decode_iff.mpr hp) (bodyDecode_badChar (charBit_eq_none_iff.mpr ⟨h0, h1⟩))
  · obtain ⟨b, hb, rfl⟩ := charBit_of_digit hchr
    refine ⟨fun hfull => exec_raises hw he (accepts_decode_iff.mpr hp) (bodyDecode_full hb hfull),
      fun hl hv => ⟨fun hd e hmem hlen hval => ?_, fun hnone => ?_⟩⟩
    · have hentry : s.entryOf (s.acc.append b) = some e :=
        (eq_append_iff hl hv).mpr ⟨hlen, hval⟩ ▸ entryOf_of_mem hd hmem
      rw [exec_decode_found he hp hb hl hentry, zext32, ← BitVec.ofNat_toNat]
      rfl
    · have hentry : s.entryOf (s.acc.append b) = none :=
        entryOf_eq_none_iff.mpr fun e hmem h => hnone e hmem ((eq_append_iff hl hv).mp h)
      rw [exec_decode_longer he hp hb hl hentry, append_eq_ofNat hl hv]
      rfl

/-! ## DECEND (R151) -/

theorem bodyDecend_partial {s : State} (hl : s.acc.len ≠ 0#7) : bodyDecend s = .raises .truncatedPayload := by
  simp [bodyDecend, hl]

theorem bodyDecend_empty {s : State} (hl : s.acc.len = 0#7) : bodyDecend s = .done s := by
  simp [bodyDecend, hl]

theorem accepts_decend_iff {p : Phase} : accepts p .decend = true ↔ p = .table := by
  simp [accepts]

/-- Settles O31, by the one check of DECEND's body. -/
theorem decendChecksTheAccumulator : Obligations.DecendChecksTheAccumulator := by
  refine ⟨by decide, fun s w hw he => ⟨fun hp => ?_, fun hp hl => ?_, fun hp hl => ?_⟩⟩
  · exact exec_outOfPhase hw he (by simpa [accepts] using hp)
  · exact exec_raises hw he (accepts_decend_iff.mpr hp) (bodyDecend_partial hl)
  · exact exec_done he (accepts_decend_iff.mpr hp) (bodyDecend_empty hl)

end Sys2Proof.Machine
end

section
/-! SUPPORT. The round trip of an encoded text (R152), by the driver's encode and decode (R185, R186), with codewords
as bit strings (R79). -/

namespace Sys2Proof.Machine

/-! ## Codewords as bit strings (R13, R79) -/

@[simp] theorem length_bits (c : Codeword) : c.bits.length = c.len.toNat := by
  simp [Codeword.bits]

theorem bitsValue_bits (c : Codeword) : bitsValue c.bits = c.val.toNat % 2 ^ c.len.toNat := by
  unfold Codeword.bits
  induction c.len.toNat with
  | zero => simp [Nat.mod_one]
  | succ n ih =>
    have hcons := shift_add_bitsValue_cons 0 (c.val.getLsbD n) ((List.range n).reverse.map fun i => c.val.getLsbD i)
    rw [List.range_succ, List.reverse_append, List.reverse_singleton, List.singleton_append, List.map_cons,
      Nat.mod_pow_succ, ← ih, ← Nat.toNat_testBit]
    simpa [Nat.mul_comm, Nat.add_comm, BitVec.testBit_toNat] using hcons

theorem ofBits_concat (bs : List Bool) (b : Bool) :
    Codeword.ofBits (bs ++ [b]) = (Codeword.ofBits bs).append b := by
  simp [Codeword.ofBits]

/-- A string of at most 64 bits spells the codeword of its length and value. -/
theorem toNat_ofBits {bs : List Bool} (h : bs.length ≤ 64) :
    (Codeword.ofBits bs).len.toNat = bs.length ∧ (Codeword.ofBits bs).val.toNat = bitsValue bs := by
  induction bs using List.reverseRecOn with
  | nil => exact ⟨rfl, rfl⟩
  | append_singleton bs b ih =>
    rw [List.length_append, List.length_singleton] at h
    obtain ⟨hlen, hval⟩ := ih (by omega)
    have hl : (Codeword.ofBits bs).len.toNat < 64 := by omega
    have hv : (Codeword.ofBits bs).val.toNat < 2 ^ (Codeword.ofBits bs).len.toNat := by
      rw [hlen, hval]; exact bitsValue_lt bs
    rw [ofBits_concat, toNat_append_len hl, toNat_append_val hl hv, hlen, hval]
    simp

theorem bits_ofBits {bs : List Bool} (h : bs.length ≤ 64) : (Codeword.ofBits bs).bits = bs := by
  obtain ⟨hlen, hval⟩ := toNat_ofBits h
  have heq := bits_of_bitsValue h
  rwa [← hlen, ← hval, BitVec.ofNat_toNat, BitVec.ofNat_toNat, BitVec.setWidth_eq, BitVec.setWidth_eq] at heq

theorem valid_iff {c : Codeword} :
    c.valid = true ↔ 1 ≤ c.len.toNat ∧ c.len.toNat ≤ 64 ∧ c.val.toNat < 2 ^ c.len.toNat := by
  simp only [Codeword.valid, Bool.and_eq_true, decide_eq_true_eq, and_assoc]
  rfl

/-- A codeword of the table is the one its bits spell. -/
theorem ofBits_bits {c : Codeword} (h : c.valid = true) : Codeword.ofBits c.bits = c := by
  obtain ⟨-, hle, hlt⟩ := valid_iff.mp h
  obtain ⟨hlen, hval⟩ := toNat_ofBits (bs := c.bits) (by simpa using hle)
  rw [bitsValue_bits, Nat.mod_eq_of_lt hlt] at hval
  exact Codeword.eq_iff_toNat.mpr ⟨by simpa using hlen, hval⟩

theorem eq_of_bits_prefix {es : List CodeEntry} {e f : CodeEntry} (h : PrefixFree es) (he : e ∈ es) (hf : f ∈ es)
    (hp : e.word.bits <+: f.word.bits) : e = f := by
  by_contra hne
  have hsymm : Std.Symm fun e f : CodeEntry => ¬ e.word.bits <+: f.word.bits ∧ ¬ f.word.bits <+: e.word.bits :=
    ⟨fun _ _ => And.symm⟩
  obtain ⟨hn, -⟩ := List.Pairwise.forall h he hf hne
  exact hn hp

/-! ## The driver between two commands (R185, R186) -/

/-- The block idles in P_TABLE without an error, with the table `es` and the bits `bs` accumulated. -/
structure State.Accumulates (s : State) (es : List CodeEntry) (bs : List Bool) : Prop where
  phase   : s.phase = .table
  err     : s.err = .noError
  pending : s.pending = none
  code    : s.code = es
  acc     : s.acc = Codeword.ofBits bs

theorem runCommand_of_exec {i : Instr} {s t : State} (hp : s.pending = none)
    (hx : exec i (issueCommand (encode i) s) = .next t) (ht : t.err = .noError) : runCommand i s = .ok t := by
  simp [runCommand, writeReg_cmd_idle hp, completed, complete_encode, hx, ht]

/-! ## Encoding a text (R140, R185) -/

/-- The host reads back the entry whose result words ENCODE wrote (R78). -/
theorem resultEntry_setCodeResults (e : CodeEntry) (s : State) : (setCodeResults e s).resultEntry = e := by
  obtain ⟨sym, len, val⟩ := e
  have hsym := sym.isLt
  have hlen := len.isLt
  simp only [State.resultEntry, setCodeResults, setResults_res0, setResults_res1, setResults_res2, codeLayout_eq_ofNat]
  congr 2
  · apply BitVec.eq_of_toNat_eq
    simp [Nat.shiftRight_eq_div_pow]
    omega
  · apply BitVec.eq_of_toNat_eq
    simp
    omega
  · exact BitVec.extractLsb'_append_extractLsb'_eq_extractLsb' (by omega) |>.trans (by simp)

section
variable {es : List CodeEntry} {s t : State}

theorem runCommand_encode_ok {sym : Symbol} (hs : s.Accumulates es []) (h : runCommand (.encode sym) s = .ok t) :
    t.resultEntry ∈ es ∧ t.resultEntry.sym = sym ∧ t.Accumulates es [] := by
  obtain ⟨hx, ht⟩ := runCommand_ok hs.pending h
  obtain ⟨-, emits, u, hu, rfl⟩ := exec_succeeds (s := issueCommand (encode (.encode sym)) s) hs.err hx ht
  obtain ⟨e, he, rfl⟩ := bodyEncode_left hu.left
  have hres : (finish emits (setCodeResults e (issueCommand (encode (.encode sym)) s))).resultEntry = e :=
    resultEntry_setCodeResults e (issueCommand (encode (.encode sym)) s)
  rw [hres]
  exact ⟨hs.code ▸ List.mem_of_find?_eq_some he, by simpa using List.find?_some he,
    hs.phase, hs.err, rfl, hs.code, hs.acc⟩

theorem encodeAll_cons_ok {sym : Symbol} {text : List Symbol} {payload : List Byte}
    (h : encodeAll (sym :: text) s = .ok (payload, t)) :
    ∃ u rest, runCommand (.encode sym) s = .ok u ∧ encodeAll text u = .ok (rest, t) ∧
      payload = u.resultEntry.word.chars ++ rest := by
  rw [encodeAll] at h
  cases hx : runCommand (.encode sym) s with
  | error e => simp [hx] at h
  | ok u =>
    rw [hx] at h
    cases hr : encodeAll text u with
    | error e => simp [hr] at h
    | ok r =>
      obtain ⟨rfl, rfl⟩ : u.resultEntry.word.chars ++ r.1 = payload ∧ r.2 = t := by simpa [hr] using h
      exact ⟨u, r.1, rfl, hr, rfl⟩

/-- A payload is the codewords of entries of the table, one for each symbol of the text. -/
theorem encodeAll_ok {text : List Symbol} {payload : List Byte} (hs : s.Accumulates es [])
    (h : encodeAll text s = .ok (payload, t)) :
    ∃ ds : List CodeEntry, (∀ d ∈ ds, d ∈ es) ∧ ds.map CodeEntry.sym = text ∧
      payload = ds.flatMap (fun d => d.word.chars) ∧ t.Accumulates es [] := by
  induction text generalizing s payload with
  | nil =>
    obtain ⟨rfl, rfl⟩ : [] = payload ∧ s = t := by simpa [encodeAll] using h
    exact ⟨[], by simp, rfl, rfl, hs⟩
  | cons sym text ih =>
    obtain ⟨u, rest, hu, hrest, rfl⟩ := encodeAll_cons_ok h
    obtain ⟨hmem, hsym, hus⟩ := runCommand_encode_ok hs hu
    obtain ⟨ds, hds, rfl, rfl, ht⟩ := ih hus hrest
    exact ⟨u.resultEntry :: ds, by simpa [hmem] using hds, by simp [hsym], by simp, ht⟩

end

/-! ## Decoding a payload (R150-R152, R186) -/

/-- The symbol in RES0 is read back whole (R150). -/
theorem extractLsb'_zext32 (sym : Symbol) : (zext32 sym).extractLsb' 0 21 = sym := by
  have := sym.isLt
  apply BitVec.eq_of_toNat_eq
  simp [zext32]
  omega

section
variable {es : List CodeEntry} {bs : List Bool} {s : State}

theorem runCommand_decode_found {e : CodeEntry} {b : Bool} (hs : s.Accumulates es bs) (hroom : bs.length < 64)
    (hd : (es.map CodeEntry.word).Nodup) (he : e ∈ es) (hword : e.word = Codeword.ofBits (bs ++ [b])) :
    ∃ t, runCommand (.decode (bitChar b)) s = .ok t ∧ t.symv = true ∧
      t.res0.extractLsb' 0 21 = e.sym ∧ t.Accumulates es [] := by
  obtain ⟨hphase, herr, hpend, rfl, hacc⟩ := hs
  have hl : s.acc.len.toNat < 64 := by rwa [hacc, (toNat_ofBits hroom.le).1]
  have hentry : s.entryOf (s.acc.append b) = some e := by
    rw [hacc, ← ofBits_concat, ← hword]
    exact entryOf_of_mem hd he
  have hx := exec_decode_found (s := issueCommand (encode (.decode (bitChar b))) s) herr hphase (charBit_bitChar b) hl
    hentry
  exact ⟨_, runCommand_of_exec hpend hx herr, rfl, extractLsb'_zext32 e.sym, hphase, herr, rfl, rfl, rfl⟩

theorem runCommand_decode_longer {b : Bool} (hs : s.Accumulates es bs) (hroom : bs.length < 64)
    (hnone : ∀ e ∈ es, e.word ≠ Codeword.ofBits (bs ++ [b])) :
    ∃ t, runCommand (.decode (bitChar b)) s = .ok t ∧ t.symv = false ∧ t.Accumulates es (bs ++ [b]) := by
  obtain ⟨hphase, herr, hpend, rfl, hacc⟩ := hs
  have hl : s.acc.len.toNat < 64 := by rwa [hacc, (toNat_ofBits hroom.le).1]
  have hentry : s.entryOf (s.acc.append b) = none := by
    rw [hacc, ← ofBits_concat]
    exact entryOf_eq_none_iff.mpr hnone
  have hx := exec_decode_longer (s := issueCommand (encode (.decode (bitChar b))) s) herr hphase (charBit_bitChar b) hl
    hentry
  refine ⟨_, runCommand_of_exec hpend hx herr, rfl, hphase, herr, rfl, rfl, ?_⟩
  rw [ofBits_concat, ← hacc]
  rfl

theorem decodeAll_cons {chr : Byte} {chars : List Byte} {out : List Symbol} {t u : State}
    (h : runCommand (.decode chr) s = .ok t) (ht : decodeAll chars t = .ok (out, u)) :
    decodeAll (chr :: chars) s = .ok (if t.symv then t.res0.extractLsb' 0 21 :: out else out, u) := by
  simp [decodeAll, h, ht]

end

section
variable {es : List CodeEntry} (hfree : PrefixFree es) (hvalid : ∀ e ∈ es, e.word.valid = true)
include hfree hvalid

/-- With the first bits of a codeword accumulated, its other bits make DECODE emit the codeword's symbol, at the last
of them and not before. -/
theorem decodeAll_codeword {e : CodeEntry} {bs cs : List Bool} {s : State} (he : e ∈ es) (hs : s.Accumulates es bs)
    (hcs : cs ≠ []) (hbits : e.word.bits = bs ++ cs) :
    ∃ t, t.Accumulates es [] ∧ ∀ {rest out u}, decodeAll rest t = .ok (out, u) →
      decodeAll (cs.map bitChar ++ rest) s = .ok (e.sym :: out, u) := by
  induction cs generalizing bs s with
  | nil => exact absurd rfl hcs
  | cons b cs ih =>
    obtain ⟨-, hle, -⟩ := valid_iff.mp (hvalid e he)
    rw [← length_bits, hbits, List.length_append, List.length_cons] at hle
    have hroom : bs.length < 64 := by omega
    by_cases hlast : cs = []
    · subst hlast
      have hword : e.word = Codeword.ofBits (bs ++ [b]) := by rw [← hbits, ofBits_bits (hvalid e he)]
      obtain ⟨t, ht, hsymv, hres, hts⟩ :=
        runCommand_decode_found hs hroom (nodup_word_of_prefixFree hfree) he hword
      refine ⟨t, hts, fun hrest => ?_⟩
      simpa [hsymv, hres] using decodeAll_cons ht hrest
    · have hnone : ∀ f ∈ es, f.word ≠ Codeword.ofBits (bs ++ [b]) := by
        intro f hf hword
        have hfbits : f.word.bits = bs ++ [b] := by
          rw [hword, bits_ofBits (by simpa using hroom)]
        obtain rfl : f = e := eq_of_bits_prefix hfree hf he ⟨cs, by simp [hfbits, hbits]⟩
        exact hlast (by simpa using hfbits.symm.trans hbits)
      obtain ⟨t, ht, hsymv, hts⟩ := runCommand_decode_longer hs hroom hnone
      obtain ⟨u, hus, hu⟩ := ih hts hlast (by simpa using hbits)
      refine ⟨u, hus, fun hrest => ?_⟩
      simpa [hsymv] using decodeAll_cons ht (hu hrest)

/-- Decoding the concatenated codewords of entries of a prefix-free table emits their symbols. -/
theorem decodeAll_codewords {ds : List CodeEntry} {s : State} (hds : ∀ d ∈ ds, d ∈ es) (hs : s.Accumulates es []) :
    ∃ t, decodeAll (ds.flatMap fun d => d.word.chars) s = .ok (ds.map CodeEntry.sym, t) ∧ t.Accumulates es [] := by
  induction ds generalizing s with
  | nil => exact ⟨s, rfl, hs⟩
  | cons d ds ih =>
    obtain ⟨hd, hds⟩ := List.forall_mem_cons.mp hds
    have hne : d.word.bits ≠ [] := by
      obtain ⟨hpos, -, -⟩ := valid_iff.mp (hvalid d hd)
      exact List.ne_nil_of_length_pos (by rwa [length_bits])
    obtain ⟨t, hts, hrest⟩ := decodeAll_codeword hfree hvalid hd hs hne rfl
    obtain ⟨u, hu, hus⟩ := ih hds hts
    exact ⟨u, hrest hu, hus⟩

end

theorem runCommand_decend {es : List CodeEntry} {s : State} (hs : s.Accumulates es []) :
    ∃ t, runCommand .decend s = .ok t := by
  obtain ⟨hphase, herr, hpend, -, hacc⟩ := hs
  have hl : s.acc.len = 0#7 := by rw [hacc]; rfl
  exact ⟨_, runCommand_of_exec hpend (exec_done herr (accepts_decend_iff.mpr hphase) (bodyDecend_empty hl)) herr⟩

/-- Settles O32: the payload is the codewords of the text's entries, and a generated table is prefix free, so that
DECODE emits each entry's symbol at the last bit of its codeword. -/
theorem decodingTheEncodedTextGivesTheText : Obligations.DecodingTheEncodedTextGivesTheText := by
  intro s t text payload hinv hphase hfreq herr hpend hacc h
  obtain ⟨-, hfree⟩ := hinv.code.generated hphase hfreq
  obtain ⟨ds, hds, rfl, rfl, ht⟩ := encodeAll_ok ⟨hphase, herr, hpend, rfl, hacc⟩ h
  obtain ⟨u, hu, hus⟩ := decodeAll_codewords hfree hinv.code.valid hds ht
  obtain ⟨v, hv⟩ := runCommand_decend hus
  exact ⟨v, by simp [decodePayload, hu, hv]⟩

end Sys2Proof.Machine
end

section
/-! SUPPORT. The statements about loading a code table (R160-R162), with LDENT's operands as a codeword (R76) and the
driver's load (R186). -/

namespace Sys2Proof.Machine

/-! ## LDBEGIN (R160) -/

theorem exec_ldbegin {s : State} (he : s.err = .noError) :
    exec .ldbegin s = .next (finish false { emptyTables s with phase := .load }) :=
  exec_done he rfl rfl

/-- Settles O33: LDBEGIN's body is `emptyTables` and the phase, and its IMM is reserved. -/
theorem ldbeginStartsAnEmptyLoad : Obligations.LdbeginStartsAnEmptyLoad := by
  refine ⟨by decide, fun s he => exec_ldbegin he, fun s w hw he hop himm => ?_⟩
  exact (complete_of_imm (o := .ldbegin) rfl hw hop himm).1 he

/-! ## LDEND (R162) -/

theorem accepts_ldend_iff {p : Phase} : accepts p .ldend = true ↔ p = .load := by
  simp [accepts]

theorem exec_ldend {s : State} (he : s.err = .noError) (hp : s.phase = .load) :
    exec .ldend s = .next (finish false { s with acc := .empty, phase := .table }) :=
  exec_done he (accepts_ldend_iff.mpr hp) rfl

/-- Settles O35: LDEND's body has no check of its own. -/
theorem ldendMakesTheTableValid : Obligations.LdendMakesTheTableValid := by
  refine ⟨by decide, fun s w hw he => ⟨fun hp => ?_, fun hp => exec_ldend he hp⟩⟩
  exact exec_outOfPhase hw he (by simpa [accepts] using hp)

/-! ## LDENT's operands (R76) -/

theorem toNat_argWord_len (s : State) : s.argWord.len.toNat = s.arg2.toNat % 2 ^ 7 := by
  simp [State.argWord]

theorem toNat_argWord_val (s : State) : s.argWord.val.toNat = s.arg1.toNat * 2 ^ 32 + s.arg0.toNat :=
  toNat_append_eq_add s.arg1 s.arg0

theorem argReserved_eq_zero_iff {s : State} : s.argReserved = 0#25 ↔ s.arg2.toNat / 2 ^ 7 = 0 := by
  have := s.arg2.isLt
  rw [← BitVec.toNat_inj, State.argReserved, BitVec.extractLsb'_toNat, Nat.shiftRight_eq_div_pow,
    Nat.mod_eq_of_lt (by omega), BitVec.toNat_ofNat, Nat.zero_mod]

/-! ## LDENT (R161) -/

theorem toNat_encode_ldent (sym : Symbol) : (encode (.ldent sym)).toNat = 0x61000000 + sym.toNat := by
  simp [toNat_encode_of_operand (i := .ldent sym) rfl, Instr.opcode, Opcode.bits]

theorem accepts_ldent_iff {p : Phase} {sym : Symbol} : accepts p (.ldent sym) = true ↔ p = .load := by
  simp [accepts]

section
variable {sym : Symbol} {s : State}

/-- LDENT checks no more of its entry than R161 says. -/
theorem badEntry_eq_false_iff : badEntry sym s = false ↔ s.argReserved = 0#25 ∧ s.argWord.valid = true ∧
    (∀ e ∈ s.code, e.sym ≠ sym) ∧ ∀ e ∈ s.code, e.word ≠ s.argWord := by
  refine ⟨badEntry_eq_false, fun ⟨hres, hvalid, hsym, hword⟩ => ?_⟩
  simp [badEntry, hres, hvalid, codeOf_eq_none_iff.mpr hsym, entryOf_eq_none_iff.mpr hword]

/-- The grounds of BAD_ENTRY by the numbers in the ARG registers. -/
theorem badEntry_iff : badEntry sym s = true ↔ s.arg2.toNat / 2 ^ 7 ≠ 0 ∨ s.argWord.len.toNat = 0 ∨
    64 < s.argWord.len.toNat ∨ 2 ^ s.argWord.len.toNat ≤ s.argWord.val.toNat ∨ (∃ e ∈ s.code, e.sym = sym) ∨
    ∃ e ∈ s.code, e.word.len.toNat = s.argWord.len.toNat ∧ e.word.val.toNat = s.argWord.val.toNat := by
  simp only [← Codeword.eq_iff_toNat]
  rw [← Bool.not_eq_false, badEntry_eq_false_iff, argReserved_eq_zero_iff, valid_iff]
  simp only [not_and_or, not_forall, not_not, not_le, not_lt, Nat.lt_one_iff, exists_prop, or_assoc, ne_eq]

theorem bodyLdent_invalid (hsym : isSymbol sym = false) : bodyLdent sym s = .raises .invalidSymbol := by
  simp [bodyLdent, hsym]

variable (hsym : isSymbol sym = true)
include hsym

theorem bodyLdent_bad (hbad : badEntry sym s = true) : bodyLdent sym s = .raises .badEntry := by
  simp [bodyLdent, hsym, hbad]

variable (hgood : badEntry sym s = false)
include hgood

theorem bodyLdent_full (hfull : s.build.nMax ≤ s.code.length) : bodyLdent sym s = .raises .tableFull := by
  simp [bodyLdent, hsym, hgood, hfull]

theorem bodyLdent_adds (hroom : s.code.length < s.build.nMax) :
    bodyLdent sym s = .done { s with code := s.code ++ [{ sym := sym, word := s.argWord }] } := by
  simp [bodyLdent, hsym, hgood, not_le.mpr hroom]

end

/-- Settles O34: the checks of LDENT's body in their order, with the ARG registers read as the codeword they form. -/
theorem ldentAddsOneEntry : Obligations.LdentAddsOneEntry := by
  refine ⟨toNat_encode_ldent, ?_⟩
  rintro s w sym _ _ hw he rfl rfl
  rw [← toNat_argWord_len, ← toNat_argWord_val]
  refine ⟨fun hp => ?_, fun hp hbig => ?_, fun hp hle hbad => ?_, fun hp hle hres hpos hlen hval hnew hneww => ?_⟩
  · exact exec_outOfPhase hw he (by simpa [accepts] using hp)
  all_goals have ha : accepts s.phase (.ldent sym) = true := accepts_ldent_iff.mpr hp
  · have hsym : isSymbol sym = false := by simpa [← isSymbol_iff] using not_le.mpr hbig
    exact exec_raises hw he ha (bodyLdent_invalid hsym)
  all_goals have hsym : isSymbol sym = true := isSymbol_iff.mpr hle
  · exact exec_raises hw he ha (bodyLdent_bad hsym (badEntry_iff.mpr hbad))
  · have hgood : badEntry sym s = false := badEntry_eq_false_iff.mpr
      ⟨argReserved_eq_zero_iff.mpr hres, valid_iff.mpr ⟨hpos, hlen, hval⟩, hnew,
        fun e hmem => Codeword.eq_iff_toNat.not.mpr (hneww e hmem)⟩
    refine ⟨fun hfull => exec_raises hw he ha (bodyLdent_full hsym hgood hfull), fun hroom => ?_⟩
    rw [exec_done he ha (bodyLdent_adds hsym hgood hroom), BitVec.ofNat_toNat, BitVec.ofNat_toNat]
    rfl

/-! ## Loading a table (R160-R162, R186) -/

/-- The ARG registers holding a codeword, as LDE writes them (R81). -/
def setArgs (c : Codeword) (s : State) : State := { s with arg0 := c.lo, arg1 := c.hi, arg2 := zext32 c.len }

theorem argWord_setArgs (c : Codeword) (s : State) : (setArgs c s).argWord = c := by
  rw [Codeword.eq_iff_toNat, toNat_argWord_len, toNat_argWord_val]
  constructor
  · simpa [setArgs, zext32] using c.len.isLt
  · simp only [setArgs, lo_eq_ofNat, hi_eq_ofNat, BitVec.toNat_ofNat]
    omega

theorem argReserved_setArgs (c : Codeword) (s : State) : (setArgs c s).argReserved = 0#25 := by
  have := c.len.isLt
  apply argReserved_eq_zero_iff.mpr
  simp [setArgs, zext32]
  omega

theorem loadEntry_idle {s : State} (hp : s.pending = none) (e : CodeEntry) :
    loadEntry e s = runCommand (.ldent e.sym) (setArgs e.word s) := by
  simp [loadEntry, writeReg, State.busy, hp, setArgs]

/-- The block of build `b` idles in P_LOAD without an error, with the entries `es` loaded. -/
structure State.Loads (s : State) (b : Build) (es : List CodeEntry) : Prop where
  phase   : s.phase = .load
  err     : s.err = .noError
  pending : s.pending = none
  build   : s.build = b
  code    : s.code = es

theorem runCommand_ldbegin {s : State} (he : s.err = .noError) (hp : s.pending = none) :
    ∃ t, runCommand .ldbegin s = .ok t ∧ t.Loads s.build [] :=
  ⟨_, runCommand_of_exec hp (exec_ldbegin he) he, rfl, he, rfl, rfl, rfl⟩

section
variable {s : State} {b : Build} {es : List CodeEntry}

theorem runCommand_ldend (hs : s.Loads b es) :
    ∃ t, runCommand .ldend s = .ok t ∧ t.code = es ∧ t.phase = .table ∧ t.acc = .empty ∧ t.err = .noError ∧
      t.pending = none :=
  ⟨_, runCommand_of_exec hs.pending (exec_ldend hs.err hs.phase) hs.err, hs.code, rfl, rfl, hs.err, rfl⟩

/-- LDE of an entry that R161 accepts adds it. -/
theorem loadEntry_loads {e : CodeEntry} (hs : s.Loads b es) (hroom : es.length < b.nMax)
    (hsym : isSymbol e.sym = true) (hvalid : e.word.valid = true) (hnew : ∀ d ∈ es, d.sym ≠ e.sym)
    (hneww : ∀ d ∈ es, d.word ≠ e.word) : ∃ t, loadEntry e s = .ok t ∧ t.Loads b (es ++ [e]) := by
  obtain ⟨hphase, herr, hpend, rfl, rfl⟩ := hs
  have hword : (issueCommand (encode (.ldent e.sym)) (setArgs e.word s)).argWord = e.word := argWord_setArgs e.word s
  have hgood : badEntry e.sym (issueCommand (encode (.ldent e.sym)) (setArgs e.word s)) = false := by
    rw [badEntry_eq_false_iff, hword]
    exact ⟨argReserved_setArgs e.word s, hvalid, hnew, hneww⟩
  rw [loadEntry_idle hpend]
  exact ⟨_, runCommand_of_exec hpend (exec_done herr (accepts_ldent_iff.mpr hphase) (bodyLdent_adds hsym hgood hroom))
    herr, hphase, herr, rfl, rfl, by rw [finish_code, hword]; rfl⟩

theorem ne_of_nodup_map_append_cons {α β : Type} {f : α → β} {l r : List α} {a : α}
    (h : ((l ++ a :: r).map f).Nodup) : ∀ d ∈ l, f d ≠ f a := by
  rw [List.map_append, List.map_cons] at h
  obtain ⟨-, -, hne⟩ := List.nodup_append.mp h
  exact fun d hd => hne (f d) (List.mem_map_of_mem hd) (f a) List.mem_cons_self

/-- Each entry is new to those loaded before it, so LDENT adds them all. -/
theorem loadEntries_loads {loaded : List CodeEntry} (hs : s.Loads b loaded) (hsize : (loaded ++ es).length ≤ b.nMax)
    (hok : ∀ e ∈ es, isSymbol e.sym = true ∧ e.word.valid = true) (hsyms : ((loaded ++ es).map CodeEntry.sym).Nodup)
    (hwords : ((loaded ++ es).map CodeEntry.word).Nodup) :
    ∃ t, loadEntries es s = .ok t ∧ t.Loads b (loaded ++ es) := by
  induction es generalizing s loaded with
  | nil => exact ⟨s, rfl, by simpa using hs⟩
  | cons e es ih =>
    obtain ⟨⟨hsym, hvalid⟩, hok⟩ := List.forall_mem_cons.mp hok
    have hroom : loaded.length < b.nMax := by rw [List.length_append, List.length_cons] at hsize; omega
    obtain ⟨t, ht, hts⟩ := loadEntry_loads hs hroom hsym hvalid (ne_of_nodup_map_append_cons hsyms)
      (ne_of_nodup_map_append_cons hwords)
    rw [List.append_cons] at hsize hsyms hwords ⊢
    obtain ⟨u, hu, hus⟩ := ih hts hsize hok hsyms hwords
    exact ⟨u, by rw [loadEntries, ht, ← hu], hus⟩

end

/-- Settles O36: LDBEGIN leaves no entry, each LDE adds its own, LDEND keeps them. -/
theorem loadingATableLeavesItsEntries : Obligations.LoadingATableLeavesItsEntries := by
  intro s es herr hpend hsize hok hsyms hwords
  obtain ⟨t, ht, hts⟩ := runCommand_ldbegin herr hpend
  obtain ⟨u, hu, hus⟩ := loadEntries_loads hts hsize hok hsyms hwords
  obtain ⟨v, hv, hvs⟩ := runCommand_ldend hus
  exact ⟨v, by simp [loadTable, ht, hu, hv], hvs⟩

end Sys2Proof.Machine
end

section
/-! SUPPORT. The statements about reading back the tables (R170-R172). A result register shows a field with zeros
above it (R78), here as the field's number. -/

namespace Sys2Proof.Machine

/-! ## The words of the readback commands (R71) -/

theorem toNat_encode_rdfreq (idx : Index) : (encode (.rdfreq idx)).toNat = 0x70000000 + idx.toNat := by
  simp [toNat_encode_of_operand (i := .rdfreq idx) rfl, Instr.opcode, Opcode.bits]

theorem toNat_encode_rdnode (idx : Index) : (encode (.rdnode idx)).toNat = 0x71000000 + idx.toNat := by
  simp [toNat_encode_of_operand (i := .rdnode idx) rfl, Instr.opcode, Opcode.bits]

theorem toNat_encode_rdcode (idx : Index) : (encode (.rdcode idx)).toNat = 0x72000000 + idx.toNat := by
  simp [toNat_encode_of_operand (i := .rdcode idx) rfl, Instr.opcode, Opcode.bits]

section
variable {s : State} {idx : Index}

/-! ## RDFREQ (R170) -/

theorem bodyRdfreq_outOfRange (hout : s.freq.length ≤ idx.toNat) : bodyRdfreq idx s = .raises .indexRange := by
  simp only [bodyRdfreq, List.getElem?_eq_none hout]

theorem bodyRdfreq_entry {e : FreqEntry} (hentry : s.freq[idx.toNat]? = some e) :
    bodyRdfreq idx s = .done (setResults e.count (BitVec.ofNat 32 e.sym.toNat) 0#32 s) := by
  simp only [bodyRdfreq, hentry, BitVec.ofNat_toNat]

/-! ## RDNODE (R171) -/

theorem bodyRdnode_outOfRange (hout : s.node.length ≤ idx.toNat) : bodyRdnode idx s = .raises .indexRange := by
  simp only [bodyRdnode, List.getElem?_eq_none hout]

theorem bodyRdnode_leaf {wt : Word} {sym : Symbol} (hleaf : s.node[idx.toNat]? = some (.leaf wt sym)) :
    bodyRdnode idx s = .done (setResults wt (BitVec.ofNat 32 sym.toNat) leafMark s) := by
  simp only [bodyRdnode, hleaf, BitVec.ofNat_toNat]

theorem bodyRdnode_internal {wt : Word} {l r : Index} (hinternal : s.node[idx.toNat]? = some (.internal wt l r)) :
    bodyRdnode idx s = .done (setResults wt (BitVec.ofNat 32 l.toNat) (BitVec.ofNat 32 r.toNat) s) := by
  simp only [bodyRdnode, hinternal, BitVec.ofNat_toNat]

/-! ## RDCODE (R172) -/

theorem bodyRdcode_outOfRange (hout : s.code.length ≤ idx.toNat) : bodyRdcode idx s = .raises .indexRange := by
  simp only [bodyRdcode, List.getElem?_eq_none hout]

theorem bodyRdcode_entry {e : CodeEntry} (hentry : s.code[idx.toNat]? = some e) :
    bodyRdcode idx s = .done (setCodeResults e s) := by
  simp only [bodyRdcode, hentry]

end

/-! ## The statements: every phase accepts the three commands (R30), so that their bodies answer -/

/-- Settles O37: RDFREQ's body, by whether the index has an entry. -/
theorem rdfreqReadsOneEntry : Obligations.RdfreqReadsOneEntry := by
  refine ⟨toNat_encode_rdfreq, fun s w idx hw he => ⟨fun hout => ?_, fun e hentry => ?_⟩⟩
  · exact exec_raises hw he rfl (bodyRdfreq_outOfRange hout)
  · exact exec_done (i := .rdfreq idx) he rfl (bodyRdfreq_entry hentry)

/-- Settles O38: RDNODE's body, by whether the index has a node and by the node's kind. -/
theorem rdnodeReadsOneNode : Obligations.RdnodeReadsOneNode := by
  refine ⟨toNat_encode_rdnode, fun s w idx hw he =>
    ⟨fun hout => ?_, fun wt sym hleaf => ?_, fun wt l r hinternal => ?_⟩⟩
  · exact exec_raises hw he rfl (bodyRdnode_outOfRange hout)
  · exact exec_done (i := .rdnode idx) he rfl (bodyRdnode_leaf hleaf)
  · exact exec_done (i := .rdnode idx) he rfl (bodyRdnode_internal hinternal)

/-- Settles O39: RDCODE's body, by whether the index has an entry; its result words are ENCODE's. -/
theorem rdcodeReadsOneEntry : Obligations.RdcodeReadsOneEntry := by
  refine ⟨toNat_encode_rdcode, fun s w idx hw he => ⟨fun hout => ?_, fun e hentry => ?_⟩⟩
  · exact exec_raises hw he rfl (bodyRdcode_outOfRange hout)
  · rw [exec_done (i := .rdcode idx) he rfl (bodyRdcode_entry hentry), setCodeResults_eq]
    rfl

end Sys2Proof.Machine
end

section
/-! SUPPORT. The container text read back (R180-R184): UTF-8, lines, markers and table lines. -/

namespace Sys2Proof.Machine

/-! ## UTF-8 (K3) -/

@[simp] theorem toNat_byteOf (n : Nat) : (byteOf n).toNat = n % 256 := by simp [byteOf]

/-- The payload bits of an encoding spell the code point. -/
theorem utf8Value_utf8Encode (sym : Symbol) : utf8Value (utf8Encode sym) = some sym.toNat := by
  have := sym.isLt
  simp only [utf8Encode]
  split_ifs <;> simp only [utf8Value, toNat_byteOf, Option.some.injEq] <;> omega

theorem utf8One_utf8Encode {sym : Symbol} (hsym : isSymbol sym = true) (hsur : isSurrogate sym = false) :
    utf8One (utf8Encode sym) = some sym := by
  simp [utf8One, utf8Value_utf8Encode, hsym, hsur]

/-- An encoding is the ASCII code itself, or bytes none of which is an ASCII code. -/
theorem utf8Encode_ascii_or_high (sym : Symbol) :
    (sym.toNat < 0x80 ∧ utf8Encode sym = [byteOf sym.toNat]) ∨ ∀ b ∈ utf8Encode sym, 0x80 ≤ b.toNat := by
  have := sym.isLt
  simp only [utf8Encode]
  split_ifs with h
  · exact .inl ⟨h, rfl⟩
  all_goals
    right
    simp only [List.forall_mem_cons, toNat_byteOf, List.not_mem_nil, false_imp_iff, implies_true, and_true]
    omega

/-- No encoding but that of U+000A holds a line feed. -/
theorem lineFeed_notMem_utf8Encode {sym : Symbol} (h : unserializable sym = false) : lineFeed ∉ utf8Encode sym := by
  intro hmem
  obtain ⟨hlt, heq⟩ | hhigh := utf8Encode_ascii_or_high sym
  · rw [heq, List.mem_singleton] at hmem
    have hbyte := congrArg BitVec.toNat hmem.symm
    rw [toNat_byteOf, Nat.mod_eq_of_lt (by omega)] at hbyte
    obtain rfl : sym = 0x0A#21 := BitVec.eq_of_toNat_eq hbyte
    simp [unserializable] at h
  · exact absurd (hhigh _ hmem) (by decide)

/-! ## Lines (R184) -/

theorem splitLines_of_notMem {l : List Byte} (h : lineFeed ∉ l) : splitLines l = [l] := by
  induction l with
  | nil => rfl
  | cons b bs ih =>
    obtain ⟨hb, hbs⟩ := List.ne_and_not_mem_of_not_mem_cons h
    simp [splitLines, hb.symm, ih hbs]

theorem splitLines_append_lineFeed {l : List Byte} (h : lineFeed ∉ l) (rest : List Byte) :
    splitLines (l ++ lineFeed :: rest) = l :: splitLines rest := by
  induction l with
  | nil => simp [splitLines]
  | cons b bs ih =>
    obtain ⟨hb, hbs⟩ := List.ne_and_not_mem_of_not_mem_cons h
    simp [splitLines, hb.symm, ih hbs]

/-- The first line that begins with the marker splits the lines. -/
theorem splitAtMarker_append {marker l : List Byte} {ls : List (List Byte)} (hls : ∀ k ∈ ls, ¬ marker <+: k)
    (hl : marker <+: l) (rest : List (List Byte)) : splitAtMarker marker (ls ++ l :: rest) = some (ls, rest) := by
  induction ls with
  | nil => simp [splitAtMarker, hl]
  | cons k ks ih =>
    obtain ⟨hk, hks⟩ := List.forall_mem_cons.mp hls
    simp [splitAtMarker, hk, ih hks]

/-! ## Table lines (R181, R184) -/

/-- A table line without its line feed. -/
def lineText (e : CodeEntry) : List Byte := utf8Encode e.sym ++ colon :: e.word.chars

theorem tableLine_eq (e : CodeEntry) : tableLine e = lineText e ++ [lineFeed] := by
  simp [tableLine, lineText]

/-- Codeword characters are neither line feeds, carriage returns nor colons. -/
theorem notMem_chars {b : Byte} (h0 : b ≠ bitChar false) (h1 : b ≠ bitChar true) (c : Codeword) : b ∉ c.chars := by
  intro hb
  obtain ⟨x, -, rfl⟩ := List.mem_map.mp hb
  cases x <;> contradiction

theorem splitLastColon_of_notMem {r : List Byte} (h : colon ∉ r) : splitLastColon r = none := by
  induction r with
  | nil => rfl
  | cons b bs ih =>
    obtain ⟨hb, hbs⟩ := List.ne_and_not_mem_of_not_mem_cons h
    simp [splitLastColon, hb.symm, ih hbs]

theorem splitLastColon_append {r : List Byte} (h : colon ∉ r) (l : List Byte) :
    splitLastColon (l ++ colon :: r) = some (l, r) := by
  induction l with
  | nil => simp [splitLastColon, splitLastColon_of_notMem h]
  | cons b bs ih => simp [splitLastColon, ih]

theorem bitsOfChars_map_bitChar (bs : List Bool) : bitsOfChars (bs.map bitChar) = some bs := by
  induction bs with
  | nil => rfl
  | cons b bs ih => simp [bitsOfChars, ih]

/-- A line that ends with a codeword character ends with no carriage return. -/
theorem chompReturn_lineText {e : CodeEntry} (h : e.word.valid = true) : chompReturn (lineText e) = lineText e := by
  have hne : e.word.chars ≠ [] := by
    obtain ⟨hpos, -, -⟩ := valid_iff.mp h
    exact List.ne_nil_of_length_pos (by rwa [Codeword.chars, List.length_map, length_bits])
  refine if_neg fun hlast => notMem_chars (b := carriageReturn) (by decide) (by decide) e.word ?_
  rw [lineText, List.append_cons, List.getLast?_append_of_ne_nil _ hne] at hlast
  exact List.mem_of_getLast? hlast

theorem parseLine_lineText {e : CodeEntry} (hsym : isSymbol e.sym = true) (hsur : isSurrogate e.sym = false)
    (hvalid : e.word.valid = true) : parseLine (lineText e) = some e := by
  have hcolon : colon ∉ e.word.chars := notMem_chars (by decide) (by decide) e.word
  have hbits : bitsOfChars e.word.chars = some e.word.bits := bitsOfChars_map_bitChar e.word.bits
  obtain ⟨hpos, hle, -⟩ := valid_iff.mp hvalid
  have hlen : 1 ≤ e.word.bits.length ∧ e.word.bits.length ≤ Config.lMax := by
    rw [length_bits]; exact ⟨hpos, hle⟩
  rw [parseLine, chompReturn_lineText hvalid, lineText, splitLastColon_append hcolon]
  simp only [utf8One_utf8Encode hsym hsur, hbits, hlen, and_self, ↓reduceIte, ofBits_bits hvalid]

theorem parseTable_map_lineText {es : List CodeEntry}
    (hes : ∀ e ∈ es, isSymbol e.sym = true ∧ isSurrogate e.sym = false ∧ e.word.valid = true) :
    parseTable (es.map lineText) = some es := by
  induction es with
  | nil => rfl
  | cons e es ih =>
    obtain ⟨⟨hsym, hsur, hvalid⟩, hes⟩ := List.forall_mem_cons.mp hes
    simp [parseTable, parseLine_lineText hsym hsur hvalid, ih hes]

theorem lineFeed_notMem_lineText {e : CodeEntry} (h : unserializable e.sym = false) : lineFeed ∉ lineText e := by
  have hchars : lineFeed ∉ e.word.chars := notMem_chars (by decide) (by decide) e.word
  have hcolon : lineFeed ≠ colon := by decide
  simp [lineText, lineFeed_notMem_utf8Encode h, hchars, hcolon]

theorem splitLines_flatMap_tableLine {es : List CodeEntry} (hes : ∀ e ∈ es, unserializable e.sym = false)
    (rest : List Byte) : splitLines (es.flatMap tableLine ++ rest) = es.map lineText ++ splitLines rest := by
  induction es with
  | nil => rfl
  | cons e es ih =>
    obtain ⟨he, hes⟩ := List.forall_mem_cons.mp hes
    simp [tableLine_eq, splitLines_append_lineFeed (lineFeed_notMem_lineText he), ih hes]

/-- No table line begins with the end marker: a line that begins with its first letter has the colon next. -/
theorem not_endMarker_prefix_lineText (e : CodeEntry) : ¬ endMarker <+: lineText e := by
  rw [lineText, endMarker, List.cons_prefix_iff]
  rintro ⟨l, hl, hp⟩
  obtain ⟨-, heq⟩ | hhigh := utf8Encode_ascii_or_high e.sym
  · rw [heq, List.singleton_append, List.cons.injEq] at hl
    obtain ⟨-, rfl⟩ := hl
    exact absurd (List.cons_prefix_cons.mp hp).1 (by decide)
  · cases hu : utf8Encode e.sym with
    | nil => rw [hu] at hl; exact absurd (List.cons.inj hl).1 (by decide)
    | cons b bs =>
      have hb : 0x80 ≤ b.toNat := hhigh b (by simp [hu])
      rw [hu] at hl
      rw [(List.cons.inj hl).1] at hb
      exact absurd hb (by decide)

/-! ## The container (R180-R184) -/

theorem trimBlanks_of_none {bs : List Byte} (h : ∀ b ∈ bs, isBlank b = false) : trimBlanks bs = bs := by
  have hdrop {l : List Byte} (hl : ∀ b ∈ l, isBlank b = false) : l.dropWhile isBlank = l := by
    cases l with
    | nil => rfl
    | cons b l => simp [List.dropWhile, hl b List.mem_cons_self]
  rw [trimBlanks, hdrop h, hdrop (by simpa using h), List.reverse_reverse]

theorem writeContainer_ok {es : List CodeEntry} {payload out : List Byte} (h : writeContainer es payload = .ok out) :
    (∀ e ∈ es, unserializable e.sym = false) ∧ out =
      (startMarker ++ [space]) ++ lineFeed ::
        (es.flatMap tableLine ++ ((endMarker ++ [space]) ++ lineFeed :: payload)) := by
  unfold writeContainer at h
  split_ifs at h with hany
  exact ⟨by simpa using hany, by simpa using h.symm⟩

/-- Settles O59: the lines of the container are the marker lines, one line for each entry and the payload. -/
theorem containerReaderInvertsTheWriter : Obligations.ContainerReaderInvertsTheWriter := by
  intro es payload out hes hpayload h
  obtain ⟨hline, rfl⟩ := writeContainer_ok h
  have hfeed : lineFeed ∉ payload := fun hmem => absurd (hpayload _ hmem) (by decide)
  have hblank : ∀ b ∈ payload, isBlank b = false := fun b hb => by
    obtain rfl | rfl := hpayload b hb <;> rfl
  have hsplit : splitLines ((startMarker ++ [space]) ++ lineFeed ::
      (es.flatMap tableLine ++ ((endMarker ++ [space]) ++ lineFeed :: payload))) =
      (startMarker ++ [space]) :: (es.map lineText ++ (endMarker ++ [space]) :: [payload]) := by
    rw [splitLines_append_lineFeed (by decide), splitLines_flatMap_tableLine hline,
      splitLines_append_lineFeed (by decide), splitLines_of_notMem hfeed]
  have hstart := splitAtMarker_append (ls := []) (by simp) (List.prefix_append startMarker [space])
    (es.map lineText ++ (endMarker ++ [space]) :: [payload])
  have hend := splitAtMarker_append (ls := es.map lineText)
    (List.forall_mem_map.mpr fun e _ => not_endMarker_prefix_lineText e) (List.prefix_append endMarker [space])
    [payload]
  rw [List.nil_append] at hstart
  simp only [readContainer, hsplit, hstart, hend, parseTable_map_lineText hes, joinLines, trimBlanks_of_none hblank]

end Sys2Proof.Machine
end

section
/-! SUPPORT. The round trip of a text through a container (R185, R186, R188): what the encode sequence's table is, and
the decode sequence on what it wrote. -/

namespace Sys2Proof.Machine

/-! ## Commands of the driver one after another (R185) -/

theorem runCommands_append_ok {is js : List Instr} {s u : State} (h : runCommands (is ++ js) s = .ok u) :
    ∃ t, runCommands is s = .ok t ∧ runCommands js t = .ok u := by
  induction is generalizing s with
  | nil => exact ⟨s, rfl, h⟩
  | cons i is ih =>
    obtain ⟨t, ht, hrest⟩ := runCommands_cons_ok h
    obtain ⟨v, hv, hjs⟩ := ih hrest
    exact ⟨v, by rw [runCommands, ht, ← hv], hjs⟩

theorem runCommands_pair_ok {i j : Instr} {s u : State} (h : runCommands [i, j] s = .ok u) :
    ∃ t, runCommand i s = .ok t ∧ runCommand j t = .ok u := by
  obtain ⟨t, ht, hrest⟩ := runCommands_cons_ok h
  obtain ⟨v, hv, hnil⟩ := runCommands_cons_ok hrest
  obtain rfl : v = u := by simpa [runCommands] using hnil
  exact ⟨t, ht, hv⟩

/-- The block of build `b` idles without an error, in the tree invariant: what a driver finds between two commands. -/
structure State.Idles (s : State) (b : Build) : Prop where
  tree    : s.TreeInv
  err     : s.err = .noError
  pending : s.pending = none
  build   : s.build = b

theorem build_effect {i : Instr} {emits : Bool} {s u : State} (h : s.Effect i emits u) : u.build = s.build := by
  obtain hs | ⟨-, rfl⟩ := sameHost_effect h
  · exact hs.build
  · rfl

theorem treeInv_issueCommand {s : State} (hs : s.TreeInv) (w : Word) : (issueCommand w s).TreeInv :=
  treeInv_of_sameTables (s := s) ⟨rfl, rfl, rfl, rfl, rfl, rfl, rfl, rfl⟩ hs

section
variable {b : Build} {s t : State}

/-- A driver's command that succeeds has its effect, and the block idles again. -/
theorem runCommand_idles {i : Instr} (hs : s.Idles b) (h : runCommand i s = .ok t) :
    t.Idles b ∧ ∃ emits u, (issueCommand (encode i) s).Effect i emits u ∧ t = finish emits u := by
  obtain ⟨hx, ht⟩ := runCommand_ok hs.pending h
  obtain ⟨ha, emits, u, hu, rfl⟩ := exec_succeeds (s := issueCommand (encode i) s) hs.err hx ht
  have heff := effect_of_body ha hu
  have htree := exec_keeps_treeInv (treeInv_issueCommand hs.tree _) hx
  exact ⟨⟨htree, ht, rfl, (build_effect heff).trans hs.build⟩, emits, u, heff, rfl⟩

theorem runCommands_idles {is : List Instr} (hs : s.Idles b) (h : runCommands is s = .ok t) : t.Idles b := by
  induction is generalizing s with
  | nil =>
    obtain rfl : s = t := by simpa [runCommands] using h
    exact hs
  | cons i is ih =>
    obtain ⟨u, hu, hrest⟩ := runCommands_cons_ok h
    exact ih (runCommand_idles hs hu).1 hrest

/-- CLEAR brings every block of a legal build, whatever its state, to an idle one with nothing counted (R92). -/
theorem runCommand_clear_idles (hb : s.build.WellFormed = true) (hp : s.pending = none)
    (h : runCommand .clear s = .ok t) : t.Idles s.build ∧ t.Counted [] := by
  obtain ⟨hx, ht⟩ := runCommand_ok hp h
  rw [exec_clear] at hx
  obtain rfl : finish false (clearBlock (issueCommand (encode .clear) s)) = t := by simpa using hx
  exact ⟨⟨⟨hb, freqOk_of_empty rfl rfl, rfl, rfl, rfl, rfl⟩, rfl, rfl, rfl⟩, .nil rfl rfl⟩

/-- BUILD keeps the frequency table (R114). -/
theorem runCommand_build_counted {text : List Symbol} (hs : s.Idles b) (hc : s.Counted text)
    (h : runCommand .build s = .ok t) : t.Counted text := by
  obtain ⟨-, emits, u, hu, rfl⟩ := runCommand_idles hs h
  cases hu with
  | build ha hleft =>
    have ho := onlyTree_bodyBuild ha hleft
    exact State.Counted.of_eq (t := finish false u) hc ho.freq ho.total
  | unchanged hi => simp at hi
  | results _ _ _ hi => simp [Instr.opcode] at hi

/-- The block idles in P_TABLE with the table `es`, which is a code for the symbols of the text (R33, R131). -/
structure State.Encodes (s : State) (b : Build) (es : List CodeEntry) (text : List Symbol) : Prop where
  table     : s.Accumulates es []
  size      : es.length ≤ b.nMax
  symbols   : ∀ e ∈ es, isSymbol e.sym = true
  valid     : ∀ e ∈ es, e.word.valid = true
  distinct  : (es.map CodeEntry.sym).Nodup
  codewords : (es.map CodeEntry.word).Nodup
  free      : PrefixFree es
  occurs    : ∀ e ∈ es, e.sym ∈ text

/-- GENTABLE after counting a text gives a code for its symbols (R130, R131). -/
theorem runCommand_gentable_encodes {text : List Symbol} (hs : s.Idles b) (hc : s.Counted text)
    (h : runCommand .gentable s = .ok t) : t.Encodes b t.code text := by
  obtain ⟨ht, emits, u, hu, rfl⟩ := runCommand_idles hs h
  have htree := treeInv_issueCommand hs.tree (encode .gentable)
  cases hu with
  | gentable es hp hmakes =>
    obtain ⟨hdone, -⟩ := (treeOk_tree hp).mp htree.tree
    obtain ⟨hsyms, hvalid, hfree⟩ := gentableMakes_spec hdone hmakes
    have hcode := codeOk_gentable htree hp hmakes
    refine ⟨⟨rfl, hs.err, rfl, rfl, rfl⟩, hs.build ▸ hcode.size, hcode.symbols, hvalid, hcode.distinct,
      hcode.codewords, hfree, fun e he => ?_⟩
    have hmem : e.sym ∈ s.freq.map FreqEntry.sym := hsyms ▸ List.mem_map_of_mem he
    rwa [hc.symbols, List.mem_reverse, List.mem_dedup, List.mem_reverse] at hmem
  | unchanged hi => simp at hi
  | results _ _ _ hi => simp [Instr.opcode] at hi

/-- Pass 1 of an encode (R185): CLEAR, the counts, BUILD and GENTABLE leave a code for the text. -/
theorem runCommands_pass1_encodes {text : List Symbol} (hb : s.build.WellFormed = true) (hp : s.pending = none)
    (h : runCommands (.clear :: text.map .count ++ [.build, .gentable]) s = .ok t) :
    t.Encodes s.build t.code text := by
  rw [List.cons_append] at h
  obtain ⟨u, hu, hrest⟩ := runCommands_cons_ok h
  obtain ⟨v, hv, hlast⟩ := runCommands_append_ok hrest
  obtain ⟨x, hx, ht⟩ := runCommands_pair_ok hlast
  obtain ⟨hui, huc⟩ := runCommand_clear_idles hb hp hu
  have hvi := runCommands_idles hui hv
  have hvc := counted_runCommands huc hui.pending hui.err hv
  exact runCommand_gentable_encodes (runCommand_idles hvi hx).1 (runCommand_build_counted hvi hvc hx) ht

end

/-! ## The table read back (R172, R181) -/

section
variable {es : List CodeEntry} {s t : State}

theorem bodyRdcode_left_entry {idx : Index} (h : (bodyRdcode idx s).left = some t) :
    ∃ e, s.code[idx.toNat]? = some e ∧ t = setCodeResults e s := by
  cases he : s.code[idx.toNat]? with
  | none => simp [bodyRdcode_outOfRange (List.getElem?_eq_none_iff.mp he), Body.left] at h
  | some e => exact ⟨e, rfl, by simpa [bodyRdcode_entry he, Body.left] using h.symm⟩

theorem runCommand_rdcode_ok {idx : Index} (hs : s.Accumulates es []) (h : runCommand (.rdcode idx) s = .ok t) :
    es[idx.toNat]? = some t.resultEntry ∧ t.Accumulates es [] := by
  obtain ⟨hx, ht⟩ := runCommand_ok hs.pending h
  obtain ⟨-, emits, u, hu, rfl⟩ := exec_succeeds (s := issueCommand (encode (.rdcode idx)) s) hs.err hx ht
  obtain ⟨e, he, rfl⟩ := bodyRdcode_left_entry hu.left
  have hres : (finish emits (setCodeResults e (issueCommand (encode (.rdcode idx)) s))).resultEntry = e :=
    resultEntry_setCodeResults e (issueCommand (encode (.rdcode idx)) s)
  rw [hres, ← hs.code]
  exact ⟨he, hs.phase, hs.err, rfl, rfl, hs.acc⟩

theorem readTable_cons_ok {i : Nat} {is : List Nat} {ds : List CodeEntry} (h : readTable (i :: is) s = .ok (ds, t)) :
    ∃ u rest, runCommand (.rdcode (BitVec.ofNat 16 i)) s = .ok u ∧ readTable is u = .ok (rest, t) ∧
      ds = u.resultEntry :: rest := by
  unfold readTable at h
  split at h
  · cases h
  next u hu =>
    split at h
    · cases h
    next rest v hrest =>
      obtain ⟨rfl, rfl⟩ : u.resultEntry :: rest = ds ∧ v = t := by simpa using h
      exact ⟨u, rest, hu, hrest, rfl⟩

/-- The writer reads the entries at the indices it lists. -/
theorem readTable_ok {is : List Nat} {ds : List CodeEntry} (his : ∀ i ∈ is, i < 2 ^ 16) (hs : s.Accumulates es [])
    (h : readTable is s = .ok (ds, t)) : is.map (es[·]?) = ds.map some ∧ t.Accumulates es [] := by
  induction is generalizing s ds with
  | nil =>
    obtain ⟨rfl, rfl⟩ : [] = ds ∧ s = t := by simpa [readTable] using h
    exact ⟨rfl, hs⟩
  | cons i is ih =>
    obtain ⟨hi, his⟩ := List.forall_mem_cons.mp his
    obtain ⟨u, rest, hu, hrest, rfl⟩ := readTable_cons_ok h
    obtain ⟨hentry, hus⟩ := runCommand_rdcode_ok hs hu
    rw [toNat_ofNat_of_lt hi] at hentry
    obtain ⟨htail, ht⟩ := ih his hus hrest
    exact ⟨by rw [List.map_cons, List.map_cons, hentry, htail], ht⟩

/-- The writer reads the whole table, in its order. -/
theorem readTable_all {ds : List CodeEntry} (hsize : es.length ≤ 2 ^ 16) (hs : s.Accumulates es [])
    (h : readTable (List.range s.ncode) s = .ok (ds, t)) : ds = es ∧ t.Accumulates es [] := by
  rw [State.ncode, hs.code] at h
  obtain ⟨hread, ht⟩ := readTable_ok (fun i hi => (List.mem_range.mp hi).trans_le hsize) hs h
  have hall : (List.range es.length).map (es[·]?) = es.map some :=
    List.ext_getElem (by simp) fun i hi _ => by simp at hi; simp [hi]
  exact ⟨List.map_injective_iff.mpr (Option.some_injective _) (hread.symm.trans hall), ht⟩

end

/-! ## The two sequences (R185, R186, R188) -/

theorem encodeSequence_ok {text : List Symbol} {s v : State} {out : List Byte}
    (h : encodeSequence text s = .ok (out, v)) :
    ∃ t es u payload, runCommands (.clear :: text.map .count ++ [.build, .gentable]) s = .ok t ∧
      readTable (List.range t.ncode) t = .ok (es, u) ∧ encodeAll text u = .ok (payload, v) ∧
      writeContainer es payload = .ok out := by
  unfold encodeSequence at h
  split at h
  · cases h
  next t ht =>
    split at h
    · cases h
    next es u hu =>
      split at h
      · cases h
      next payload x hx =>
        split at h
        · cases h
        next c hc =>
          obtain ⟨rfl, rfl⟩ : c = out ∧ x = v := by simpa using h
          exact ⟨t, es, u, payload, ht, hu, hx, hc⟩

theorem mem_flatMap_chars {ds : List CodeEntry} {b : Byte} (h : b ∈ ds.flatMap fun d => d.word.chars) :
    b = 0x30#8 ∨ b = 0x31#8 := by
  obtain ⟨d, -, hb⟩ := List.mem_flatMap.mp h
  obtain ⟨x, -, rfl⟩ := List.mem_map.mp hb
  cases x
  · exact .inl rfl
  · exact .inr rfl

/-- Decoding, with a prefix-free table just loaded, the codewords of entries of it (R186). -/
theorem decodePayload_codewords {es ds : List CodeEntry} {s : State} (hfree : PrefixFree es)
    (hvalid : ∀ e ∈ es, e.word.valid = true) (hds : ∀ d ∈ ds, d ∈ es) (hs : s.Accumulates es []) :
    ∃ u, decodePayload (ds.flatMap fun d => d.word.chars) s = .ok (ds.map CodeEntry.sym, u) := by
  obtain ⟨t, ht, hts⟩ := decodeAll_codewords hfree hvalid hds hs
  obtain ⟨u, hu⟩ := runCommand_decend hts
  exact ⟨u, by simp [decodePayload, ht, hu]⟩

/-- Settles O60: the container holds the generated table and the codewords of the text's entries (O59), the table loads
whole into a block of the same build (O36), and it is prefix free. -/
theorem containerRoundTripGivesTheText : Obligations.ContainerRoundTripGivesTheText := by
  intro s s' v text out hb hb' hp hp' he' hsur h
  obtain ⟨t, es, u, payload, ht, hread, hpayload, hwrite⟩ := encodeSequence_ok h
  have hcode := runCommands_pass1_encodes hb hp ht
  have hsize : t.code.length ≤ 2 ^ 16 := hcode.size.trans ((nMax_le hb).2.trans (by decide))
  obtain ⟨rfl, hu⟩ := readTable_all hsize hcode.table hread
  obtain ⟨ds, hds, rfl, rfl, -⟩ := encodeAll_ok hu hpayload
  have hreader := containerReaderInvertsTheWriter _ _ _
    (fun e he => ⟨hcode.symbols e he, hsur _ (hcode.occurs e he), hcode.valid e he⟩)
    (fun _ => mem_flatMap_chars) hwrite
  obtain ⟨x, hload, hxcode, hxphase, hxacc, hxerr, hxpend⟩ :=
    loadingATableLeavesItsEntries s' t.code he' hp' (hb' ▸ hcode.size)
      (fun e he => ⟨hcode.symbols e he, hcode.valid e he⟩) hcode.distinct hcode.codewords
  obtain ⟨y, hy⟩ := decodePayload_codewords hcode.free hcode.valid hds ⟨hxphase, hxerr, hxpend, hxcode, hxacc⟩
  exact ⟨y, by simp only [decodeSequence, hreader, hload, hy]⟩

end Sys2Proof.Machine
end

section
/-! SUPPORT. The statements about the error latch (R200-R207), and about the writes that issue a command, store an
operand or overrun (R24, R25, R208, R231). -/

namespace Sys2Proof.Machine

/-! ## The error latch (R204-R207) -/

/-- Settles O8: of all completions only an error's entry leaves an error that was not there. -/
theorem errorEntryIsPrecise : Obligations.ErrorEntryIsPrecise := by
  intro s t w hw he h ht
  obtain rfl | ⟨e, -, rfl⟩ | ⟨i, -, -, emits, u, hu, rfl⟩ := complete_effect h
  · exact absurd he ht
  · exact raiseError_eq_latches hw e
  · obtain ⟨herr, -⟩ | ⟨herr, -⟩ := latch_effect hu
    · exact absurd (herr.trans he) ht
    · exact absurd herr ht

theorem complete_clear (s : State) : complete 0x01000000#32 s = .next (finish false (clearBlock s)) :=
  (complete_encode .clear s).trans (exec_clear s)

/-- With an error latched every completion but CLEAR's changes SYMV and PENDING only: NOP has no more to do, and the
other words are dropped (R91, R205). -/
theorem complete_latched {s : State} {w : Word} (he : s.err ≠ .noError) (hw : w ≠ 0x01000000#32) :
    complete w s = .next (finish false s) := by
  obtain ⟨i, hi, hx⟩ | ⟨-, hx⟩ | ⟨-, hx⟩ := complete_cases w s <;> rw [hx]
  · cases i with
    | nop => exact exec_nop s
    | clear => exact absurd ((decode_eq_cmd_iff_encode.mp hi).symm.trans encode_clear) hw
    | count _ | heapinit | merge | build | gentable | encode _ | decode _ | decend | ldbegin | ldent _ | ldend
    | rdfreq _ | rdnode _ | rdcode _ => exact command_latched he rfl
  · exact rejectWord_drops he _
  · exact rejectWord_drops he _

/-- Settles O9: of the words that are not dropped CLEAR's is the only one that changes more. -/
theorem latchedErrorDropsEveryOtherWord : Obligations.LatchedErrorDropsEveryOtherWord :=
  fun _ he => ⟨fun _ _ hw => complete_latched he hw, hostReads_idle⟩

/-- A host action leaves the latch as it is, or it is the reset. -/
theorem hostAct_latch {a : HostAction} {rest : List HostAction} {s t : State} (h : hostAct a rest s = .next t) :
    (t.err = s.err ∧ t.errcmd = s.errcmd) ∨ (a = .reset ∧ t = resetBlock (s.advance rest)) := by
  obtain ⟨o, -, -, rfl⟩ | ⟨o, v, -, -, rfl⟩ | ⟨-, rfl⟩ | hreset := hostAct_next h
  · exact .inl ⟨rfl, rfl⟩
  · have hw := sameBlock_hostWrite o v (s.advance rest)
    exact .inl ⟨hw.err, hw.errcmd⟩
  · exact .inl ⟨rfl, rfl⟩
  · exact .inr hreset

/-- A step that latches a new error is a completion. -/
theorem step_new_error {s t : State} (h : step s = .next t) (hne : t.err ≠ s.err) (ht : t.err ≠ .noError) :
    ∃ w, s.pending = some w ∧ complete w s = .next t := by
  obtain ⟨w, hw, -, hx⟩ | ⟨a, rest, -, -, hx⟩ | ⟨-, -, hx⟩ := step_cases s <;> rw [hx] at h
  · exact ⟨w, hw, h⟩
  · obtain ⟨herr, -⟩ | ⟨-, rfl⟩ := hostAct_latch h
    · exact absurd herr hne
    · exact absurd rfl ht
  · obtain rfl : s = t := by simpa using h
    exact absurd rfl hne

/-- Settles O10: a completion while an error is latched keeps it or clears it, and error entry records the word. -/
theorem errorsComeFromCompletionsOnly : Obligations.ErrorsComeFromCompletionsOnly := by
  intro s t h hne ht
  obtain ⟨w, hw, hx⟩ := step_new_error h hne ht
  have he : s.err = .noError := by
    by_contra he
    by_cases hclear : w = 0x01000000#32
    · subst hclear
      obtain rfl : finish false (clearBlock s) = t := by simpa [complete_clear] using hx
      exact ht rfl
    · obtain rfl : finish false s = t := by simpa [complete_latched he hclear] using hx
      exact hne rfl
  exact ⟨he, w, hw, by rw [errorEntryIsPrecise s t w hw he hx ht]; rfl, hx⟩

/-- Settles O11, by the completion of CLEAR, of another word, and the host's actions. -/
theorem onlyClearAndResetLeaveTheLatch : Obligations.OnlyClearAndResetLeaveTheLatch := by
  intro s t h he
  obtain ⟨w, hw, -, hx⟩ | ⟨a, rest, htodo, -, hx⟩ | ⟨-, -, hx⟩ := step_cases s <;> rw [hx] at h
  · by_cases hclear : w = 0x01000000#32
    · subst hclear
      obtain rfl : finish false (clearBlock s) = t := by simpa [complete_clear] using h
      exact .inr ⟨.inl hw, rfl, rfl, rfl, rfl, rfl, rfl, rfl, rfl, rfl⟩
    · obtain rfl : finish false s = t := by simpa [complete_latched he hclear] using h
      exact .inl ⟨rfl, rfl⟩
  · obtain hkept | ⟨rfl, rfl⟩ := hostAct_latch h
    · exact .inl hkept
    · exact .inr ⟨.inr (by simp [htodo]), rfl, rfl, rfl, rfl, rfl, rfl, rfl, rfl, rfl⟩
  · obtain rfl : s = t := by simpa using h
    exact .inl ⟨rfl, rfl⟩

/-! ## Writes to CMD and ARG0-ARG2 (R24, R25, R208, R231) -/

@[simp] theorem hostWrite_offset (r : Reg) (v : Word) (s : State) : hostWrite r.offset v s = writeReg r v s := by
  simp [hostWrite]

/-- The registers whose writes R208 drops while BUSY, by their offsets. -/
theorem operandOffset_iff {o : Nat} :
    o ∈ [0x0C, 0x10, 0x14, 0x18] ↔ ∃ r ∈ [Reg.cmd, .arg0, .arg1, .arg2], r.offset = o :=
  List.mem_map (f := Reg.offset) (l := [.cmd, .arg0, .arg1, .arg2])

theorem hostWrite_overrun {o : Nat} {s : State} (ho : o ∈ [0x0C, 0x10, 0x14, 0x18]) (hb : s.busy = true) (v : Word) :
    hostWrite o v s = overrun s := by
  obtain ⟨r, hr, rfl⟩ := operandOffset_iff.mp ho
  rw [hostWrite_offset]
  fin_cases hr <;> exact if_pos hb

theorem offset_lt (r : Reg) : r.offset < 256 := by cases r <;> decide

theorem offset_mod (r : Reg) : r.offset % 4 = 0 := by cases r <;> decide

/-- A host write of a register is a step when it is the host's turn. -/
theorem step_write {s : State} {r : Reg} {v : Word} {rest : List HostAction}
    (ht : s.todo = .write (s.build.base + r.offset) 4 v :: rest) (hd : s.pending = none ∨ s.delay ≠ 0) :
    step s = .next (writeReg r v (s.advance rest)) := by
  rw [step_host ht hd, hostAct_write_of_offset (offset_lt r) (offset_mod r), hostWrite_offset]

/-- Settles O46: each write is the branch of `writeReg` for a block that is not busy. -/
theorem writesWhileIdleIssueOrStore : Obligations.WritesWhileIdleIssueOrStore := by
  intro s v rest hp
  have hidle : (s.advance rest).busy = false := by simp [State.busy, hp]
  refine ⟨fun ht => ?_, fun ht => ?_, fun ht => ?_, fun ht => ?_⟩
  · rw [step_write (r := .cmd) ht (.inl hp), writeReg, hidle]; rfl
  · rw [step_write (r := .arg0) ht (.inl hp), writeReg, hidle]; rfl
  · rw [step_write (r := .arg1) ht (.inl hp), writeReg, hidle]; rfl
  · rw [step_write (r := .arg2) ht (.inl hp), writeReg, hidle]; rfl

/-- A write leaves OVR, or overruns. -/
theorem hostWrite_ovr (o : Nat) (v : Word) (s : State) :
    (hostWrite o v s).ovr = s.ovr ∨ (s.busy = true ∧ o ∈ [0x0C, 0x10, 0x14, 0x18] ∧ (hostWrite o v s).ovr = true) := by
  by_cases ho : o ∈ [0x0C, 0x10, 0x14, 0x18]
  · obtain ⟨r, -, rfl⟩ := operandOffset_iff.mp ho
    rw [hostWrite_offset]
    obtain h | ⟨hb, h⟩ | ⟨-, -, h⟩ | ⟨-, -, h⟩ | ⟨-, -, h⟩ | ⟨-, -, h⟩ := writeReg_cases r v s
    case inr.inl => exact .inr ⟨hb, ho, congrArg State.ovr h⟩
    all_goals exact .inl (congrArg State.ovr h :)
  · exact .inl (by rw [hostWrite_ignored ho])

/-- Every step leaves OVR, but an overrun, CLEAR's completion and the reset (R92, R208, R230). -/
theorem step_ovr {s t : State} (h : step s = .next t) :
    t.ovr = s.ovr ∨
    (t.ovr = true ∧ s.busy = true ∧ ∃ offset v rest, s.todo = .write (s.build.base + offset) 4 v :: rest ∧
      offset ∈ [0x0C, 0x10, 0x14, 0x18]) ∨
    (t.ovr = false ∧ (s.pending = some 0x01000000#32 ∨ s.todo.head? = some .reset)) := by
  obtain ⟨w, hw, -, hx⟩ | ⟨a, rest, htodo, -, hx⟩ | ⟨-, -, hx⟩ := step_cases s <;> rw [hx] at h
  · obtain hs | ⟨rfl, emits, rfl⟩ := complete_sameHost h
    · exact .inl hs.ovr
    · exact .inr (.inr ⟨rfl, .inl hw⟩)
  · obtain ⟨o, -, -, rfl⟩ | ⟨o, v, -, rfl, rfl⟩ | ⟨-, rfl⟩ | ⟨rfl, rfl⟩ := hostAct_next h
    · exact .inl rfl
    · exact (hostWrite_ovr o v (s.advance rest)).imp_right fun ⟨hb, ho, h1⟩ =>
        .inl ⟨h1, hb, o, v, rest, htodo, ho⟩
    · exact .inl rfl
    · exact .inr (.inr ⟨rfl, .inr (by simp [htodo])⟩)
  · obtain rfl : s = t := by simpa using h
    exact .inl rfl

/-- Settles O47: the dropped write is `overrun`, and of all steps only it, CLEAR's completion and the reset write OVR. -/
theorem commandOverrunSetsStickyOvr : Obligations.CommandOverrunSetsStickyOvr := by
  refine ⟨fun s offset v rest ht ho hb hd => ?_, fun s t h => ?_⟩
  · have hoff : offset < 256 ∧ offset % 4 = 0 := by
      obtain ⟨r, -, rfl⟩ := operandOffset_iff.mp ho
      exact ⟨offset_lt r, offset_mod r⟩
    rw [step_host ht (.inr hd), hostAct_write_of_offset hoff.1 hoff.2, hostWrite_overrun ho (by exact hb)]
    rfl
  · obtain hkept | ⟨hrise, hcause⟩ | ⟨hfall, hcause⟩ := step_ovr h
    · exact ⟨fun h0 h1 => by simp [hkept, h0] at h1, fun h1 h0 => by simp [hkept, h1] at h0⟩
    · exact ⟨fun _ _ => hcause, fun _ h0 => by simp [hrise] at h0⟩
    · exact ⟨fun _ h1 => by simp [hfall] at h1, fun _ _ => hcause⟩

end Sys2Proof.Machine
end

section
/-! SUPPORT. The statements about a command in progress: its operands (R237), that it is not stuck and completes (R233),
and reset (R230). -/

namespace Sys2Proof.Machine

/-! ## The operands of a pending command (R237) -/

/-- While a command is pending a host action but the reset changes OVR and the host's own fields only. -/
theorem hostAct_busy {a : HostAction} {rest : List HostAction} {s t : State} (hb : s.busy = true) (ha : a ≠ .reset)
    (h : hostAct a rest s = .next t) :
    ∃ script seen draws ovr, (script = rest ∨ script = a :: rest) ∧
      t = { s with todo := script, seen := seen, draws := draws, ovr := ovr, delay := s.delay - 1 } := by
  obtain ⟨o, -, rfl, rfl⟩ | ⟨o, v, -, rfl, rfl⟩ | ⟨rfl, rfl⟩ | ⟨rfl, -⟩ := hostAct_next h
  · exact ⟨rest, _, _, _, .inl rfl, rfl⟩
  · by_cases ho : o ∈ [0x0C, 0x10, 0x14, 0x18]
    · rw [hostWrite_overrun ho (by exact hb)]
      exact ⟨rest, _, _, _, .inl rfl, rfl⟩
    · rw [hostWrite_ignored ho]
      exact ⟨rest, _, _, _, .inl rfl, rfl⟩
  · rw [if_pos hb]
    exact ⟨_, _, _, _, .inr rfl, rfl⟩
  · exact absurd rfl ha

/-- Settles O48: a completion keeps CMD and the operands (O12), and so does a host action while BUSY. -/
theorem operandsAreStableWhilePending : Obligations.OperandsAreStableWhilePending := by
  intro s t hb hreset h
  obtain ⟨w, -, -, hx⟩ | ⟨a, rest, htodo, -, hx⟩ | ⟨-, -, hx⟩ := step_cases s <;> rw [hx] at h
  · obtain ⟨hp, hcmd, h0, h1, h2, -⟩ := completionsKeepOperandsAndHost s t w h
    exact ⟨hcmd, h0, h1, h2, .inr hp⟩
  · obtain ⟨_, _, _, _, -, rfl⟩ := hostAct_busy hb (by rintro rfl; simp [htodo] at hreset) h
    exact ⟨rfl, rfl, rfl, rfl, .inl rfl⟩
  · obtain rfl : s = t := by simpa using h
    exact ⟨rfl, rfl, rfl, rfl, .inl rfl⟩

/-! ## No command is stuck (R233, R39) -/

/-- A command faults only where its body runs and is stuck. -/
theorem command_fault {i : Instr} {body : State → Body} {s : State} {f : Fault} (h : command i body s = .fault f) :
    (s.err = .noError ∨ runsLatched i = true) ∧ accepts s.phase i = true ∧ body s = .stuck f := by
  unfold command at h
  split_ifs at h with hl ha
  refine ⟨?_, by simpa using ha, ?_⟩
  · rw [or_iff_not_imp_left]
    simpa [State.errf] using hl
  · cases hb : body s <;> simp_all [completeBody]

/-- Only the tree commands have a body that can be stuck (log 11). -/
theorem bodyOf_stuck {i : Instr} {s : State} {f : Fault} (h : bodyOf i s = .stuck f) :
    i = .merge ∨ i = .build ∨ i = .gentable := by
  cases i with
  | merge => exact .inl rfl
  | build => exact .inr (.inl rfl)
  | gentable => exact .inr (.inr rfl)
  | nop | clear | heapinit | ldbegin | ldend => cases h
  | count _ | encode _ | decode _ | decend | ldent _ | rdfreq _ | rdnode _ | rdcode _ =>
    simp only [bodyOf, bodyCount, bodyEncode, bodyDecode, decodeBit, bodyDecend, bodyLdent, bodyRdfreq, bodyRdnode,
      bodyRdcode] at h
    repeat' split at h
    all_goals cases h

/-- GENTABLE is not stuck on a completed tree (R130). -/
theorem bodyGentable_not_stuck {s : State} (hs : s.TreeDone) (f : Fault) : bodyGentable s ≠ .stuck f := by
  match hf : s.freq with
  | [] => simp [bodyGentable_nil hf]
  | [e] => simp [bodyGentable_singleton hf]
  | _ :: _ :: _ =>
    obtain ⟨hshallow, hdeep⟩ := bodyGentable_tree hs (by simp [hf])
    by_cases h : s.ShallowTree
    · obtain ⟨es, -, hb⟩ := hshallow h
      simp [hb]
    · simp [hdeep h]

section
variable {s : State} (hs : s.TreeInv)
include hs

theorem exec_answers (i : Instr) : ∃ t, exec i s = .next t := by
  cases hx : exec i s with
  | next t => exact ⟨t, rfl⟩
  | refused r => exact absurd hx (exec_not_refused i s r)
  | fault f =>
    rw [exec_eq_command] at hx
    obtain ⟨hrun, ha, hb⟩ := command_fault hx
    obtain rfl | rfl | rfl := bodyOf_stuck hb
    · obtain ⟨t, ht⟩ := exists_mergeOnce hs (by simpa [accepts] using ha)
      simp [bodyOf, bodyMerge, ht] at hb
    · have he : s.err = .noError := by simpa [runsLatched] using hrun
      rw [bodyOf] at hb
      obtain hp | hp : s.phase = .count ∨ s.phase = .merge := by simpa [accepts] using ha
      · obtain ⟨u, hu, -⟩ := bodyBuild_count hs he hp
        simp [hu] at hb
      · obtain ⟨u, hu, -⟩ := bodyBuild_merge hs he hp
        simp [hu] at hb
    · obtain ⟨hdone, -⟩ := (treeOk_tree (by simpa [accepts] using ha)).mp hs.tree
      exact absurd hb (bodyGentable_not_stuck hdone f)

/-- Every completion in the tree invariant answers a next state. -/
theorem complete_answers (w : Word) : ∃ t, complete w s = .next t := by
  have reject (e : Err) : ∃ t, rejectWord e s = .next t := by
    obtain ⟨-, h⟩ | ⟨-, h⟩ := rejectWord_cases e s <;> exact ⟨_, h⟩
  obtain ⟨i, -, hx⟩ | ⟨-, hx⟩ | ⟨-, hx⟩ := complete_cases w s <;> rw [hx]
  · exact exec_answers hs i
  · exact reject _
  · exact reject _

end

/-- Settles O58: every completion in the invariant answers a next state, and no host action faults. -/
theorem noStepIsStuck : Obligations.NoStepIsStuck := by
  intro s f hs
  obtain ⟨w, -, -, hx⟩ | ⟨a, rest, -, -, hx⟩ | ⟨-, -, hx⟩ := step_cases s <;> rw [hx]
  · obtain ⟨t, ht⟩ := complete_answers hs w
    simp [ht]
  · exact hostAct_no_fault
  · simp

/-! ## Progress (R232, R233) -/

/-- An access that R52 defines is carried out. -/
theorem hostAct_answers {a : HostAction} {s : State} (ha : a.WellFormed s.build = true) (rest : List HostAction) :
    ∃ t, hostAct a rest s = .next t := by
  have offset {addr bytes : Nat} (h : s.build.base ≤ addr ∧ addr < s.build.base + 256 ∧ bytes = 4 ∧
      (addr - s.build.base) % 4 = 0) : ∃ o, o < 256 ∧ o % 4 = 0 ∧ addr = s.build.base + o :=
    ⟨addr - s.build.base, by omega, by omega, by omega⟩
  cases a with
  | read addr bytes =>
    simp only [HostAction.WellFormed, Bool.and_eq_true, decide_eq_true_eq, beq_iff_eq, and_assoc] at ha
    obtain ⟨o, h, h4, rfl⟩ := offset ha
    obtain ⟨-, -, rfl, -⟩ := ha
    exact ⟨_, hostAct_read_of_offset h h4 rest⟩
  | write addr bytes v =>
    simp only [HostAction.WellFormed, Bool.and_eq_true, decide_eq_true_eq, beq_iff_eq, and_assoc] at ha
    obtain ⟨o, h, h4, rfl⟩ := offset ha
    obtain ⟨-, -, rfl, -⟩ := ha
    exact ⟨_, hostAct_write_of_offset h h4 v rest⟩
  | poll => exact ⟨_, rfl⟩
  | reset => exact ⟨_, rfl⟩

theorem run_succ_of_step {s t : State} (h : step s = .next t) (n : Nat) :
    Host.Core.run core (n + 1) s = Host.Core.run core n t := by
  have hcore : core.step s = .next t := h
  simp only [Host.Core.run, hcore]

theorem quietScript_iff {b : Build} {script : List HostAction} :
    quietScript b script = true ↔ ∀ a ∈ script, a.WellFormed b = true ∧ a ≠ .reset := by
  simp [quietScript]

/-- While a command is pending and not yet due, a quiet script's next action leaves the block as it is but for OVR,
and the command one host action nearer to its completion. -/
theorem step_waits {s : State} {w : Word} {d : Nat} (hp : s.pending = some w) (hd : s.delay = d + 1) (ht : s.todo ≠ [])
    (hq : quietScript s.build (s.todo.take (d + 1)) = true) :
    ∃ script seen draws ovr, quietScript s.build (script.take d) = true ∧
      step s = .next { s with todo := script, seen := seen, draws := draws, ovr := ovr, delay := d } := by
  obtain ⟨a, rest, htodo⟩ := List.exists_cons_of_ne_nil ht
  rw [htodo, quietScript_iff] at hq
  obtain ⟨hwf, hreset⟩ := hq a (by simp)
  obtain ⟨t, hx⟩ := hostAct_answers hwf rest
  obtain ⟨script, seen, draws, ovr, hscript, rfl⟩ := hostAct_busy (by simp [State.busy, hp]) hreset hx
  rw [hd, Nat.add_sub_cancel] at hx
  refine ⟨script, seen, draws, ovr, quietScript_iff.mpr fun c hc => hq c ?_, ?_⟩
  · obtain rfl | rfl := hscript
    · exact List.mem_cons_of_mem a hc
    · exact (List.take_prefix_take_left (Nat.le_succ d)).subset hc
  · rw [step_host htodo (.inr (by omega)), hx]

/-- A pending command that is due is completed by the next step. -/
theorem step_due {s : State} {w : Word} (hs : s.TreeInv) (hp : s.pending = some w) (hdue : s.todo = [] ∨ s.delay = 0) :
    ∃ t, step s = complete w s ∧ step s = .next t ∧ t.pending = none := by
  obtain ⟨t, ht⟩ := complete_answers hs w
  have hstep := step_sequencer hp hdue
  exact ⟨t, hstep, hstep.trans ht, complete_pending ht⟩

/-- Settles O51, by induction on the delay: each action but the reset brings the completion nearer. -/
theorem pendingCommandCompletes : Obligations.PendingCommandCompletes := by
  intro s w hs hp hq
  induction hd : s.delay generalizing s with
  | zero =>
    obtain ⟨t, hstep⟩ := step_due hs hp (.inr hd)
    exact ⟨0, s, t, le_rfl, rfl, hp, rfl, rfl, rfl, rfl, rfl, hstep⟩
  | succ d ih =>
    by_cases htodo : s.todo = []
    · obtain ⟨t, hstep⟩ := step_due hs hp (.inl htodo)
      exact ⟨0, s, t, Nat.zero_le _, rfl, hp, rfl, rfl, rfl, rfl, rfl, hstep⟩
    · rw [hd] at hq
      obtain ⟨script, seen, draws, ovr, hq', hwait⟩ := step_waits hp hd htodo hq
      obtain ⟨n, u, t, hn, hrun, hu⟩ := ih _ (stepKeepsTheTree _ _ hs hwait) hp hq' rfl
      exact ⟨n + 1, u, t, Nat.succ_le_succ hn, (run_succ_of_step hwait n).trans hrun, hu⟩

/-! ## Reset (R230) -/

/-- After reset every register but CFG, which shows the build, shows what it shows in the reference build. -/
theorem readReg_resetBlock (s : State) {r : Reg} (h : r ≠ .cfg) : (resetBlock s).readReg r = State.reset.readReg r := by
  cases r with
  | cfg => exact absurd rfl h
  | id | status | cmd | arg0 | arg1 | arg2 | res0 | res1 | res2 | nsym | nnode | ncode | heapn | root | total | acclen
  | acclo | acchi | errcmd => rfl

/-- Settles O50: the reset's step is `resetBlock`, whose registers are those of the reset state. -/
theorem resetRestoresTheResetState : Obligations.ResetRestoresTheResetState := by
  intro s rest ht hd
  have hzero : ∀ r ∈ Reg.all, r ≠ .id → r ≠ .cfg → State.reset.readReg r = 0#32 := by decide
  have hreg (r : Reg) (hid : r ≠ .id) (hcfg : r ≠ .cfg) : (resetBlock (s.advance rest)).readReg r = 0#32 :=
    (readReg_resetBlock _ hcfg).trans (hzero r r.mem_all hid hcfg)
  exact ⟨resetBlock (s.advance rest), step_host ht hd, rfl, rfl, rfl, rfl, hreg .status (by decide) (by decide), hreg⟩

end Sys2Proof.Machine
end
